-- ==== Sys2Proof/Word.lean ====
section
/-! DEFINITION. The word types of the CHIP-8 core (spec/00_scope.md R5, R6). -/

namespace Sys2Proof

/-- A memory byte or a general register: 8 bits (R5). -/
abbrev Byte := BitVec 8

/-- I, PC, a stack entry or an instruction word: 16 bits (R5). -/
abbrev Word := BitVec 16

/-- A 4-bit instruction field (R71). -/
abbrev Nibble := BitVec 4

/-- The 12-bit address field NNN (R71). -/
abbrev Addr := BitVec 12

/-- The number of a general register, 0..15 (R8). -/
abbrev RegIdx := BitVec 4

/-- The number of a key of the keypad, 0..15 (R30). -/
abbrev Key := BitVec 4

end Sys2Proof
end

