-- ==== Sys2Proof/Syntax.lean ====
section
/-! DEFINITION. The 35 instructions of spec/30_encoding.md R84, one constructor for each row of
spec/opcode_table.json, with the fields of R71. -/

namespace Sys2Proof

/-- One decoded instruction. The comment of a constructor gives the pattern and the spec's mnemonic. -/
inductive Instr where
  /-- 0NNN, SYS addr: the legacy machine-code-routine call (R201). -/
  | sys (nnn : Addr)
  /-- 00E0, CLS (R160). -/
  | cls
  /-- 00EE, RET (R112). -/
  | ret
  /-- 1NNN, JP addr (R111). -/
  | jp (nnn : Addr)
  /-- 2NNN, CALL addr (R113). -/
  | call (nnn : Addr)
  /-- 3XNN, SE Vx, byte (R114). -/
  | seImm (x : RegIdx) (nn : Byte)
  /-- 4XNN, SNE Vx, byte (R115). -/
  | sneImm (x : RegIdx) (nn : Byte)
  /-- 5XYn, SE Vx, Vy (R116). The nibble n is ignored by the meaning (R77); it is kept so that the
  word can be given back. -/
  | seReg (x y : RegIdx) (n : Nibble)
  /-- 6XNN, LD Vx, byte (R130). -/
  | ldImm (x : RegIdx) (nn : Byte)
  /-- 7XNN, ADD Vx, byte (R131). -/
  | addImm (x : RegIdx) (nn : Byte)
  /-- 8XY0, LD Vx, Vy (R132). -/
  | ldReg (x y : RegIdx)
  /-- 8XY1, OR Vx, Vy (R133). -/
  | orReg (x y : RegIdx)
  /-- 8XY2, AND Vx, Vy (R134). -/
  | andReg (x y : RegIdx)
  /-- 8XY3, XOR Vx, Vy (R135). -/
  | xorReg (x y : RegIdx)
  /-- 8XY4, ADD Vx, Vy (R136). -/
  | addReg (x y : RegIdx)
  /-- 8XY5, SUB Vx, Vy (R137). -/
  | subReg (x y : RegIdx)
  /-- 8XY6, SHR Vx, Vy (R139). -/
  | shrReg (x y : RegIdx)
  /-- 8XY7, SUBN Vx, Vy (R138). -/
  | subnReg (x y : RegIdx)
  /-- 8XYE, SHL Vx, Vy (R141). -/
  | shlReg (x y : RegIdx)
  /-- 9XYn, SNE Vx, Vy (R117). The nibble n is ignored by the meaning (R77). -/
  | sneReg (x y : RegIdx) (n : Nibble)
  /-- ANNN, LD I, addr (R150). -/
  | ldI (nnn : Addr)
  /-- BNNN, JP V0, addr (R118). Its X field is the high nibble of NNN. -/
  | jpV0 (nnn : Addr)
  /-- CXNN, RND Vx, byte (R200). -/
  | rnd (x : RegIdx) (nn : Byte)
  /-- DXYN, DRW Vx, Vy, nibble (R161). -/
  | drw (x y : RegIdx) (n : Nibble)
  /-- EX9E, SKP Vx (R180). -/
  | skp (x : RegIdx)
  /-- EXA1, SKNP Vx (R181). -/
  | sknp (x : RegIdx)
  /-- FX07, LD Vx, DT (R190). -/
  | ldVxDt (x : RegIdx)
  /-- FX0A, LD Vx, K (R182). -/
  | ldVxKey (x : RegIdx)
  /-- FX15, LD DT, Vx (R191). -/
  | ldDtVx (x : RegIdx)
  /-- FX18, LD ST, Vx (R192). -/
  | ldStVx (x : RegIdx)
  /-- FX1E, ADD I, Vx (R151). -/
  | addI (x : RegIdx)
  /-- FX29, LD F, Vx (R152). -/
  | ldFont (x : RegIdx)
  /-- FX33, LD B, Vx (R153). -/
  | ldBcd (x : RegIdx)
  /-- FX55, LD [I], Vx (R154). -/
  | storeRegs (x : RegIdx)
  /-- FX65, LD Vx, [I] (R155). -/
  | loadRegs (x : RegIdx)
deriving DecidableEq, Repr

end Sys2Proof
end

