-- ==== Sys2Proof/Decode.lean ====
section
/-! DEFINITION. The decoder, its encoder, and the opcode table as data (spec/30_encoding.md R70 to R85). -/

namespace Sys2Proof

/-- OP = W[15:12] (R71). -/
def fieldOp (w : Word) : Nibble := w.extractLsb' 12 4

/-- X = W[11:8] (R71). -/
def fieldX (w : Word) : RegIdx := w.extractLsb' 8 4

/-- Y = W[7:4] (R71). -/
def fieldY (w : Word) : RegIdx := w.extractLsb' 4 4

/-- N = W[3:0] (R71). -/
def fieldN (w : Word) : Nibble := w.extractLsb' 0 4

/-- NN = W[7:0] (R71). -/
def fieldNN (w : Word) : Byte := w.extractLsb' 0 8

/-- NNN = W[11:0] (R71). -/
def fieldNNN (w : Word) : Addr := w.extractLsb' 0 12

/-- Why bytes are no instruction. -/
inductive DecodeError where
  /-- The word is no row of the opcode map: the verdict `Unrecognized` (R78). -/
  | unrecognized (w : Word)
  /-- Fewer than the two bytes of an instruction (R70). The core's fetch always gives two. -/
  | truncated
deriving DecidableEq, Repr

/-- The verdict on one word. `Legacy` (R79) is the instruction `sys`. -/
abbrev Decoded := Except DecodeError Instr

/-- OP = 0x0 (R76): two exact words, and every other one is the legacy call. -/
def decodeFamily0 (w : Word) : Instr :=
  if w = 0x00E0#16 then .cls else if w = 0x00EE#16 then .ret else .sys (fieldNNN w)

/-- OP = 0x8: the low nibble selects (R75, R78). -/
def decodeFamily8 (w : Word) : Decoded :=
  match fieldN w with
  | 0x0#4 => .ok (.ldReg (fieldX w) (fieldY w))
  | 0x1#4 => .ok (.orReg (fieldX w) (fieldY w))
  | 0x2#4 => .ok (.andReg (fieldX w) (fieldY w))
  | 0x3#4 => .ok (.xorReg (fieldX w) (fieldY w))
  | 0x4#4 => .ok (.addReg (fieldX w) (fieldY w))
  | 0x5#4 => .ok (.subReg (fieldX w) (fieldY w))
  | 0x6#4 => .ok (.shrReg (fieldX w) (fieldY w))
  | 0x7#4 => .ok (.subnReg (fieldX w) (fieldY w))
  | 0xE#4 => .ok (.shlReg (fieldX w) (fieldY w))
  | _ => .error (.unrecognized w)

/-- OP = 0xE: the low byte selects (R75, R78). -/
def decodeFamilyE (w : Word) : Decoded :=
  match fieldNN w with
  | 0x9E#8 => .ok (.skp (fieldX w))
  | 0xA1#8 => .ok (.sknp (fieldX w))
  | _ => .error (.unrecognized w)

/-- OP = 0xF: the low byte selects (R75, R78). -/
def decodeFamilyF (w : Word) : Decoded :=
  match fieldNN w with
  | 0x07#8 => .ok (.ldVxDt (fieldX w))
  | 0x0A#8 => .ok (.ldVxKey (fieldX w))
  | 0x15#8 => .ok (.ldDtVx (fieldX w))
  | 0x18#8 => .ok (.ldStVx (fieldX w))
  | 0x1E#8 => .ok (.addI (fieldX w))
  | 0x29#8 => .ok (.ldFont (fieldX w))
  | 0x33#8 => .ok (.ldBcd (fieldX w))
  | 0x55#8 => .ok (.storeRegs (fieldX w))
  | 0x65#8 => .ok (.loadRegs (fieldX w))
  | _ => .error (.unrecognized w)

/-- The decode function of R85: total, and it reads nothing but the word (R74). -/
def decode (w : Word) : Decoded :=
  match fieldOp w with
  | 0x0#4 => .ok (decodeFamily0 w)
  | 0x1#4 => .ok (.jp (fieldNNN w))
  | 0x2#4 => .ok (.call (fieldNNN w))
  | 0x3#4 => .ok (.seImm (fieldX w) (fieldNN w))
  | 0x4#4 => .ok (.sneImm (fieldX w) (fieldNN w))
  | 0x5#4 => .ok (.seReg (fieldX w) (fieldY w) (fieldN w))
  | 0x6#4 => .ok (.ldImm (fieldX w) (fieldNN w))
  | 0x7#4 => .ok (.addImm (fieldX w) (fieldNN w))
  | 0x8#4 => decodeFamily8 w
  | 0x9#4 => .ok (.sneReg (fieldX w) (fieldY w) (fieldN w))
  | 0xA#4 => .ok (.ldI (fieldNNN w))
  | 0xB#4 => .ok (.jpV0 (fieldNNN w))
  | 0xC#4 => .ok (.rnd (fieldX w) (fieldNN w))
  | 0xD#4 => .ok (.drw (fieldX w) (fieldY w) (fieldN w))
  | 0xE#4 => decodeFamilyE w
  | _ => decodeFamilyF w

/-- An instruction word from its two bytes: the high byte is at the lower address (R54, R55). -/
def wordOfBytes (hi lo : Byte) : Word := hi ++ lo

/-- The decoder over bytes: it always takes exactly two (R70, R81) and gives the rest back. -/
def decodeBytes : List Byte → Except DecodeError (Instr × List Byte)
  | hi :: lo :: rest =>
    match decode (wordOfBytes hi lo) with
    | .ok i => .ok (i, rest)
    | .error e => .error e
  | _ => .error .truncated

/-- A word of format A: OP NNN (R72). -/
def formA (op : Nibble) (nnn : Addr) : Word := op ++ nnn

/-- A word of format XB: OP X NN (R72). -/
def formXB (op : Nibble) (x : RegIdx) (nn : Byte) : Word := op ++ x ++ nn

/-- A word of format XY or XYN: OP X Y N (R72). -/
def formXYN (op : Nibble) (x y : RegIdx) (n : Nibble) : Word := op ++ x ++ y ++ n

/-- The word of an instruction, from the patterns of R84. -/
def encode : Instr → Word
  | .sys nnn => formA 0x0#4 nnn
  | .cls => 0x00E0#16
  | .ret => 0x00EE#16
  | .jp nnn => formA 0x1#4 nnn
  | .call nnn => formA 0x2#4 nnn
  | .seImm x nn => formXB 0x3#4 x nn
  | .sneImm x nn => formXB 0x4#4 x nn
  | .seReg x y n => formXYN 0x5#4 x y n
  | .ldImm x nn => formXB 0x6#4 x nn
  | .addImm x nn => formXB 0x7#4 x nn
  | .ldReg x y => formXYN 0x8#4 x y 0x0#4
  | .orReg x y => formXYN 0x8#4 x y 0x1#4
  | .andReg x y => formXYN 0x8#4 x y 0x2#4
  | .xorReg x y => formXYN 0x8#4 x y 0x3#4
  | .addReg x y => formXYN 0x8#4 x y 0x4#4
  | .subReg x y => formXYN 0x8#4 x y 0x5#4
  | .shrReg x y => formXYN 0x8#4 x y 0x6#4
  | .subnReg x y => formXYN 0x8#4 x y 0x7#4
  | .shlReg x y => formXYN 0x8#4 x y 0xE#4
  | .sneReg x y n => formXYN 0x9#4 x y n
  | .ldI nnn => formA 0xA#4 nnn
  | .jpV0 nnn => formA 0xB#4 nnn
  | .rnd x nn => formXB 0xC#4 x nn
  | .drw x y n => formXYN 0xD#4 x y n
  | .skp x => formXB 0xE#4 x 0x9E#8
  | .sknp x => formXB 0xE#4 x 0xA1#8
  | .ldVxDt x => formXB 0xF#4 x 0x07#8
  | .ldVxKey x => formXB 0xF#4 x 0x0A#8
  | .ldDtVx x => formXB 0xF#4 x 0x15#8
  | .ldStVx x => formXB 0xF#4 x 0x18#8
  | .addI x => formXB 0xF#4 x 0x1E#8
  | .ldFont x => formXB 0xF#4 x 0x29#8
  | .ldBcd x => formXB 0xF#4 x 0x33#8
  | .storeRegs x => formXB 0xF#4 x 0x55#8
  | .loadRegs x => formXB 0xF#4 x 0x65#8

/-- The high byte of a word. -/
def hiByte (w : Word) : Byte := w.extractLsb' 8 8

/-- The low byte of a word. -/
def loByte (w : Word) : Byte := w.extractLsb' 0 8

/-- The two bytes of an instruction as memory holds them, the high byte first (R54). -/
def encodeBytes (i : Instr) : List Byte := [hiByte (encode i), loByte (encode i)]

/-- The word that spec/opcode_table.json numbers w: one 16-bit word, bit 0 least significant; the bits
from nbits up are 0. -/
def tableWord (nbits w : Nat) : Word := BitVec.ofNat 16 (w % 2 ^ nbits)

/-- The instruction the decoder reads from the bytes of a table word, laid out high byte first. -/
def decodeTableWord (nbits w : Nat) : Option Instr :=
  match decodeBytes [hiByte (tableWord nbits w), loByte (tableWord nbits w)] with
  | .ok (i, _) => some i
  | .error _ => none

/-- One row of the opcode map: a word belongs to it when its bits under the mask are the match. -/
structure OpcodeRow where
  mnemonic : String
  mask : Word
  value : Word
deriving DecidableEq, Repr

/-- Does the word belong to the row, by mask and match alone? -/
def OpcodeRow.covers (r : OpcodeRow) (w : Word) : Bool := w &&& r.mask == r.value

/-- The rows of R84 of OP 0 to 7. -/
def opcodeRowsLow : List OpcodeRow :=
  [⟨"SYS_addr", 0xF000#16, 0x0000#16⟩, ⟨"CLS", 0xFFFF#16, 0x00E0#16⟩, ⟨"RET", 0xFFFF#16, 0x00EE#16⟩,
   ⟨"JP_addr", 0xF000#16, 0x1000#16⟩, ⟨"CALL_addr", 0xF000#16, 0x2000#16⟩,
   ⟨"SE_Vx__byte", 0xF000#16, 0x3000#16⟩, ⟨"SNE_Vx__byte", 0xF000#16, 0x4000#16⟩,
   ⟨"SE_Vx__Vy", 0xF000#16, 0x5000#16⟩, ⟨"LD_Vx__byte", 0xF000#16, 0x6000#16⟩,
   ⟨"ADD_Vx__byte", 0xF000#16, 0x7000#16⟩]

/-- The rows of R84 of OP 8. -/
def opcodeRows8 : List OpcodeRow :=
  [⟨"LD_Vx__Vy", 0xF00F#16, 0x8000#16⟩, ⟨"OR_Vx__Vy", 0xF00F#16, 0x8001#16⟩,
   ⟨"AND_Vx__Vy", 0xF00F#16, 0x8002#16⟩, ⟨"XOR_Vx__Vy", 0xF00F#16, 0x8003#16⟩,
   ⟨"ADD_Vx__Vy", 0xF00F#16, 0x8004#16⟩, ⟨"SUB_Vx__Vy", 0xF00F#16, 0x8005#16⟩,
   ⟨"SHR_Vx__Vy", 0xF00F#16, 0x8006#16⟩, ⟨"SUBN_Vx__Vy", 0xF00F#16, 0x8007#16⟩,
   ⟨"SHL_Vx__Vy", 0xF00F#16, 0x800E#16⟩]

/-- The rows of R84 of OP 9 to F. -/
def opcodeRowsHigh : List OpcodeRow :=
  [⟨"SNE_Vx__Vy", 0xF000#16, 0x9000#16⟩, ⟨"LD_I__addr", 0xF000#16, 0xA000#16⟩,
   ⟨"JP_V0__addr", 0xF000#16, 0xB000#16⟩, ⟨"RND_Vx__byte", 0xF000#16, 0xC000#16⟩,
   ⟨"DRW_Vx__Vy__nibble", 0xF000#16, 0xD000#16⟩, ⟨"SKP_Vx", 0xF0FF#16, 0xE09E#16⟩,
   ⟨"SKNP_Vx", 0xF0FF#16, 0xE0A1#16⟩, ⟨"LD_Vx__DT", 0xF0FF#16, 0xF007#16⟩,
   ⟨"LD_Vx__K", 0xF0FF#16, 0xF00A#16⟩, ⟨"LD_DT__Vx", 0xF0FF#16, 0xF015#16⟩,
   ⟨"LD_ST__Vx", 0xF0FF#16, 0xF018#16⟩, ⟨"ADD_I__Vx", 0xF0FF#16, 0xF01E#16⟩,
   ⟨"LD_F__Vx", 0xF0FF#16, 0xF029#16⟩, ⟨"LD_B__Vx", 0xF0FF#16, 0xF033#16⟩,
   ⟨"LD__I___Vx", 0xF0FF#16, 0xF055#16⟩, ⟨"LD_Vx___I", 0xF0FF#16, 0xF065#16⟩]

/-- The opcode map of R84, its 35 rows in the table's order, with the names of spec/opcode_table.json. -/
def opcodeTable : List OpcodeRow := opcodeRowsLow ++ opcodeRows8 ++ opcodeRowsHigh

/-- The name of an instruction's row in spec/opcode_table.json. -/
def Instr.mnemonic : Instr → String
  | .sys _ => "SYS_addr"
  | .cls => "CLS"
  | .ret => "RET"
  | .jp _ => "JP_addr"
  | .call _ => "CALL_addr"
  | .seImm _ _ => "SE_Vx__byte"
  | .sneImm _ _ => "SNE_Vx__byte"
  | .seReg _ _ _ => "SE_Vx__Vy"
  | .ldImm _ _ => "LD_Vx__byte"
  | .addImm _ _ => "ADD_Vx__byte"
  | .ldReg _ _ => "LD_Vx__Vy"
  | .orReg _ _ => "OR_Vx__Vy"
  | .andReg _ _ => "AND_Vx__Vy"
  | .xorReg _ _ => "XOR_Vx__Vy"
  | .addReg _ _ => "ADD_Vx__Vy"
  | .subReg _ _ => "SUB_Vx__Vy"
  | .shrReg _ _ => "SHR_Vx__Vy"
  | .subnReg _ _ => "SUBN_Vx__Vy"
  | .shlReg _ _ => "SHL_Vx__Vy"
  | .sneReg _ _ _ => "SNE_Vx__Vy"
  | .ldI _ => "LD_I__addr"
  | .jpV0 _ => "JP_V0__addr"
  | .rnd _ _ => "RND_Vx__byte"
  | .drw _ _ _ => "DRW_Vx__Vy__nibble"
  | .skp _ => "SKP_Vx"
  | .sknp _ => "SKNP_Vx"
  | .ldVxDt _ => "LD_Vx__DT"
  | .ldVxKey _ => "LD_Vx__K"
  | .ldDtVx _ => "LD_DT__Vx"
  | .ldStVx _ => "LD_ST__Vx"
  | .addI _ => "ADD_I__Vx"
  | .ldFont _ => "LD_F__Vx"
  | .ldBcd _ => "LD_B__Vx"
  | .storeRegs _ => "LD__I___Vx"
  | .loadRegs _ => "LD_Vx___I"

end Sys2Proof
end

