-- ==== Sys2Proof/Config.lean ====
section
/-! DEFINITION. What one session fixes (spec/00_scope.md R4, spec/10_state.md R31, R45) and the one
free value of the core, the random byte (spec/47_random_unimplemented.md R200). -/

namespace Sys2Proof

/-- The six quirk flags (spec/10_state.md R31), each true for the effect the rule quotes. -/
structure Quirks where
  /-- 8XY1, 8XY2 and 8XY3 also zero VF. -/
  vfReset : Bool
  /-- FX55 and FX65 advance I past the last touched address. -/
  memory : Bool
  /-- A sprite draw waits for the next tick if one was already drawn in this tick. -/
  displayWait : Bool
  /-- Sprites are clipped at the screen's edges instead of wrapping. -/
  clipping : Bool
  /-- 8XY6 and 8XYE shift Vx in place instead of Vy. -/
  shifting : Bool
  /-- BNNN adds V[X] instead of V0. -/
  jumping : Bool
deriving DecidableEq, Repr

/-- The highest key that FX0A scans: the parameter KEY_SCAN_LAST, whose range is 0xE or 0xF (R4, R183). -/
inductive KeyScanLast where
  | keyE
  | keyF
deriving DecidableEq, Repr

/-- The configuration of one session, fixed at construction (spec/10_state.md R45). -/
structure Config where
  /-- QUIRKS. -/
  quirks : Quirks
  /-- IPS, instructions per second, at least 60 (R4, R232). -/
  ips : Nat
  /-- STACK_CAP, the number of return-address entries, at least 12 (R4, R232). -/
  stackCap : Nat
  /-- KEY_SCAN_LAST. -/
  keyScanLast : KeyScanLast
deriving DecidableEq, Repr

/-- FREE VALUE. The byte that the n-th draw of the `rnd` port gives (R200: "any uniform 8-bit source is
acceptable", "under no law"). It has no body: no proof can know a value of it (log entry 7). -/
opaque Config.randomByte : Nat → Byte

end Sys2Proof
end

