-- ==== Sys2Proof/Machine/Defaults.lean ====
section
/-! DEFINITION. The values a session takes when the host names no others (spec/00_scope.md R4) and the
default font (spec/10_state.md R27). -/

namespace Sys2Proof.Machine

/-- The suggested quirk mix of spec/92_eei_decisions.md D8. PRESUMED (log entry 3): the spec leaves QUIRKS open. -/
def defaultQuirks : Quirks :=
  { vfReset := true, memory := true, displayWait := true, clipping := true, shifting := false, jumping := false }

/-- The default parameters of R4: IPS = 600, STACK_CAP = 16, KEY_SCAN_LAST = 0xE. -/
def defaultConfig : Config :=
  { quirks := defaultQuirks, ips := 600, stackCap := 16, keyScanLast := .keyE }

/-- Glyphs 0 to 3 of R27. -/
def fontGlyphs0 : List Byte :=
  [0xF0#8, 0x90#8, 0x90#8, 0x90#8, 0xF0#8, 0x20#8, 0x60#8, 0x20#8, 0x20#8, 0x70#8,
   0xF0#8, 0x10#8, 0xF0#8, 0x80#8, 0xF0#8, 0xF0#8, 0x10#8, 0xF0#8, 0x10#8, 0xF0#8]

/-- Glyphs 4 to 7 of R27. -/
def fontGlyphs4 : List Byte :=
  [0x90#8, 0x90#8, 0xF0#8, 0x10#8, 0x10#8, 0xF0#8, 0x80#8, 0xF0#8, 0x10#8, 0xF0#8,
   0xF0#8, 0x80#8, 0xF0#8, 0x90#8, 0xF0#8, 0xF0#8, 0x10#8, 0x20#8, 0x40#8, 0x40#8]

/-- Glyphs 8 to B of R27. -/
def fontGlyphs8 : List Byte :=
  [0xF0#8, 0x90#8, 0xF0#8, 0x90#8, 0xF0#8, 0xF0#8, 0x90#8, 0xF0#8, 0x10#8, 0xF0#8,
   0xF0#8, 0x90#8, 0xF0#8, 0x90#8, 0x90#8, 0xE0#8, 0x90#8, 0xE0#8, 0x90#8, 0xE0#8]

/-- Glyphs C to F of R27. -/
def fontGlyphsC : List Byte :=
  [0xF0#8, 0x80#8, 0x80#8, 0x80#8, 0xF0#8, 0xE0#8, 0x90#8, 0x90#8, 0x90#8, 0xE0#8,
   0xF0#8, 0x80#8, 0xF0#8, 0x80#8, 0xF0#8, 0xF0#8, 0x80#8, 0xF0#8, 0x80#8, 0x80#8]

/-- FONT, 16 glyphs of 5 bytes (R27). PRESUMED (log entry 6): the conventional table, the default the spec gives. -/
def defaultFont : List Byte := fontGlyphs0 ++ fontGlyphs4 ++ fontGlyphs8 ++ fontGlyphsC

/-- What a byte of memory that nothing has written reads as: the font at 0x000..0x04F (R27, R52), and
0x00 at every other address. DESIGN CHOICE (log entry 5): the spec leaves INIT_MEM open. -/
def unlistedByte (a : Nat) : Byte := defaultFont.getD a 0x00#8

end Sys2Proof.Machine
end

