-- ==== Sys2Proof/Machine/State.lean ====
section
/-! DEFINITION. The state of the CHIP-8 core (spec/10_state.md R20 to R42), the reasons a step can stop,
and the state after reset. -/

namespace Sys2Proof.Machine

/-- The fatal errors that a cycle can raise (spec/60_exceptions.md R210). RomTooLarge is not among them: it is
raised at construction, and then there is no machine to hold it (`Fault.romTooLarge`). -/
inductive FatalKind where
  | unrecognizedOpcode
  | stackOverflow
  | stackUnderflow
  | unimplementedLegacy
deriving DecidableEq, Repr

/-- The fault record (spec/10_state.md R37). -/
structure FaultRecord where
  /-- The fatal error's kind. -/
  kind : FatalKind
  /-- The instruction word being executed. -/
  opcode : Word
  /-- PC at detection: the fetch address plus 2 (R213). -/
  pc : Word
deriving DecidableEq, Repr

/-- The memory array as the bytes that differ from what an unlisted address reads as, by rising address
(spec/20_memory.md R50). `Memory.wf` in Machine/Ops.lean is the canonical form. -/
abbrev Memory := List Host.Cell

/-- Everything the spec gives the core (spec/10_state.md R42), as plain data. -/
structure State where
  /-- V0..VF (R20). -/
  regs : Vector Byte 16
  /-- I (R24). -/
  i : Word
  /-- PC (R23). -/
  pc : Word
  /-- The occupied stack entries, stack[0] first, the top last (R25). SP is their number (log entry 9). -/
  stack : List Word
  /-- The 4096-byte array (R26). -/
  memory : Memory
  /-- The delay timer DT (R28). -/
  dt : Byte
  /-- The sound timer ST (R28). -/
  st : Byte
  /-- The 64x32 pixel grid: cell row*64+col is true when the pixel is on (R29). -/
  screen : Vector Bool 2048
  /-- keys[k] is true while key k is down (R30). -/
  keys : Vector Bool 16
  /-- The core waits for a key (R33). -/
  blocked : Bool
  /-- The register that the awaited key goes to; meaningless while `blocked` is false (R34). -/
  blockedReg : RegIdx
  /-- A sprite was drawn in this tick, under quirk display_wait (R35). -/
  dwLatch : Bool
  /-- Cycles since the last tick (R36). -/
  tickCount : Nat
  /-- The fault record, or none (R37). -/
  fault : Option FaultRecord
  /-- QUIRKS and the other parameters of the session, which no command changes (R32, R45). -/
  cfg : Config
  /-- The model's own field: how many random bytes have been drawn; it selects the next free value (log entry 7). -/
  draws : Nat
deriving DecidableEq, Repr

/-- How an operation of the core ends with no state at all. No step ends so: a fatal error of a cycle is a
next state that holds the fault record (spec/60_exceptions.md R211, log entry 1). -/
inductive Fault where
  /-- Raised by `construct` alone: the ROM is longer than 3584 bytes and no machine is built
  (spec/70_reset_and_hazards.md R231). Safe: the spec names this error. -/
  | romTooLarge
deriving DecidableEq, Repr

/-- Why a command is turned away, with the state as it was. -/
inductive Refusal where
  /-- An arm of `exec` with no meaning yet. No arm answers it. Safe: nothing is claimed of such an instruction. -/
  | notModelled (mnemonic : String)
  /-- Raised by `step`: a `Cycle` command in the Faulted state (spec/40_cycle.md R95). Safe: the spec refuses it. -/
  | cycleWhenFaulted
  /-- Raised by `hostStep`: a `Reset` command in the Faulted state (spec/70_reset_and_hazards.md R234).
  Safe: the spec refuses it. -/
  | resetWhenFaulted
  /-- Raised by `hostStep`: a key index outside 0..15 (spec/40_cycle.md R100). Safe: the spec refuses it. -/
  | keyOutOfRange
  /-- Raised by `construct`: IPS below 60 (spec/70_reset_and_hazards.md R232). Safe: the spec refuses it. -/
  | ipsTooSmall
  /-- Raised by `construct`: STACK_CAP below 12 (spec/70_reset_and_hazards.md R232). Safe: the spec refuses it. -/
  | stackCapTooSmall
  /-- Raised by `cycleOneFrame`: a refresh rate of 0, where spec/40_cycle.md R97 asks for a positive one.
  Safe: the model does nothing (log entry 15). -/
  | refreshRateZero
deriving DecidableEq, Repr

/-- The state right after construction with an empty ROM and the default parameters (R42, the column "after
construction"). V0..VF (log entry 4), blockedReg (log entry 8), cfg.quirks (log entry 3) and draws (log entry 7)
are values the model names; the rest is the spec's. -/
def State.reset : State :=
  { regs := Vector.replicate 16 0x00#8
    i := 0x0000#16
    pc := 0x0200#16
    stack := []
    memory := []
    dt := 0x00#8
    st := 0x00#8
    screen := Vector.replicate 2048 false
    keys := Vector.replicate 16 false
    blocked := false
    blockedReg := 0x0#4
    dwLatch := false
    tickCount := 0
    fault := none
    cfg := defaultConfig
    draws := 0 }

end Sys2Proof.Machine
end

