-- ==== Sys2Proof/Machine/Ops.lean ====
section
/-! DEFINITION. The named operations over registers, memory, stack, screen, keys and timers, and the one
operation that raises a fatal error. -/

namespace Sys2Proof.Machine

/-! ### Registers -/

/-- V[x] (spec/00_scope.md R8). -/
def getV (s : State) (x : RegIdx) : Byte := s.regs[x.toNat]'x.isLt

/-- V[x] <- b (R8). No register is hard-wired (spec/10_state.md R20). -/
def setV (s : State) (x : RegIdx) (b : Byte) : State := { s with regs := s.regs.set x.toNat b x.isLt }

/-- PC <- a (spec/00_scope.md R10). -/
def setPc (s : State) (a : Word) : State := { s with pc := a }

/-- I <- a (spec/00_scope.md R10). -/
def setI (s : State) (a : Word) : State := { s with i := a }

/-- DT <- b (R10). -/
def setDt (s : State) (b : Byte) : State := { s with dt := b }

/-- ST <- b (R10). -/
def setSt (s : State) (b : Byte) : State := { s with st := b }

/-- PC <- PC + 2, modulo 65536: the fetch's advance (spec/40_cycle.md R90). -/
def advancePc (s : State) : State := setPc s (s.pc + 2)

/-- A skip: PC <- PC + 2 when the condition holds (spec/41_control_flow.md R110). -/
def skipIf (c : Bool) (s : State) : State := if c then advancePc s else s

/-! ### Memory -/

/-- One byte of the array, at an address below 4096. -/
def Memory.read : Memory → Nat → Byte
  | [], a => unlistedByte a
  | c :: m, a => if c.1 = a then c.2 else Memory.read m a

/-- Puts a cell in its place by rising address. -/
def Memory.insert (c : Host.Cell) : Memory → Memory
  | [] => [c]
  | d :: m => if c.1 < d.1 then c :: d :: m else d :: Memory.insert c m

/-- Stores one byte: a byte equal to what its unlisted address reads as is not listed. -/
def Memory.write (m : Memory) (a : Nat) (v : Byte) : Memory :=
  let rest := m.filter (fun c => c.1 != a)
  if v = unlistedByte a then rest else Memory.insert (a, v) rest

/-- The canonical form: addresses rise strictly, lie below 4096, and no cell repeats what an unlisted
address reads as. Equal memories are then equal lists. -/
def Memory.wf (m : Memory) : Bool :=
  decide (m.Pairwise (fun c d => c.1 < d.1)) &&
    m.all (fun c => decide (c.1 < 4096) && decide (c.2 ≠ unlistedByte c.1))

/-- The address a 16-bit value names: reduced modulo 4096 (spec/20_memory.md R51). -/
def memAddr (a : Word) : Nat := a.toNat % 4096

/-- MemRead(a, 1) (spec/00_scope.md R9). -/
def memRead (s : State) (a : Word) : Byte := Memory.read s.memory (memAddr a)

/-- MemWrite(a, 1, v) (spec/00_scope.md R9). Every byte can be written (spec/10_state.md R26). -/
def memWrite (s : State) (a : Word) (v : Byte) : State :=
  { s with memory := Memory.write s.memory (memAddr a) v }

/-- Stores bytes at a rising run of addresses, each reduced modulo 4096. -/
def memWriteBytes (s : State) (a : Word) : List Byte → State
  | [] => s
  | v :: vs => memWriteBytes (memWrite s a v) (a + 1) vs

/-- The instruction word at PC: Mem[PC] : Mem[PC+1], high byte first, each address reduced
separately (spec/20_memory.md R54, R55). -/
def fetchWord (s : State) : Word := wordOfBytes (memRead s s.pc) (memRead s (s.pc + 1))

/-- Stores a word where the next cycle fetches its instruction, and puts the core in the Running state, in
which a cycle fetches (spec/40_cycle.md R92). -/
def placeWord (s : State) (w : Word) : State :=
  { memWriteBytes s s.pc [hiByte w, loByte w] with blocked := false, fault := none }

/-! ### Stack -/

/-- SP, the number of occupied entries (spec/10_state.md R25). -/
def State.sp (s : State) : Nat := s.stack.length

/-- stack[SP] <- a; SP <- SP + 1 (spec/41_control_flow.md R113). -/
def push (s : State) (a : Word) : State := { s with stack := s.stack ++ [a] }

/-- SP <- SP - 1 (spec/41_control_flow.md R112): the entry popped is gone (R25). -/
def dropTop (s : State) : State := { s with stack := s.stack.dropLast }

/-! ### Fatal errors -/

/-- raise Fatal(kind): fault <- (kind, W, PC), and nothing else changes (spec/60_exceptions.md R211, R212). PC is
already the fetch address plus 2 (R213). There is no trap entry and no return (R216, R217). -/
def raiseFatal (kind : FatalKind) (w : Word) (s : State) : State :=
  { s with fault := some { kind := kind, opcode := w, pc := s.pc } }

/-- The numeric code of a kind (R210). -/
def FatalKind.code : FatalKind → Nat
  | .unrecognizedOpcode => 1
  | .stackOverflow => 2
  | .stackUnderflow => 3
  | .unimplementedLegacy => 4

/-! ### Screen -/

/-- A screen with every pixel off. -/
def blankScreen : Vector Bool 2048 := Vector.replicate 2048 false

/-- The cell of a pixel: row*64+col (spec/10_state.md R29). -/
def cellIndex (row : Fin 32) (col : Fin 64) : Fin 2048 := ⟨row.val * 64 + col.val, by omega⟩

/-- screen <- g. -/
def setScreen (s : State) (g : Vector Bool 2048) : State := { s with screen := g }

/-- Where a coordinate p of a sprite lands on an axis of the given size: itself, or, past the edge, nowhere
(clipping) or wrapped round (spec/44_display.md R165). -/
def wrapOrClip (clip : Bool) (size p : Nat) (h : 0 < size) : Option (Fin size) :=
  if hp : p < size then some ⟨p, hp⟩
  else if clip then none
  else some ⟨p % size, Nat.mod_lt p h⟩

/-- The cells of one sprite row's set bits, left to right: bit 7 is the leftmost (R166). -/
def rowCells (clip : Bool) (x0 : Nat) (row : Fin 32) (b : Byte) : List (Fin 2048) :=
  (List.range 8).filterMap fun c =>
    if b.getLsbD (7 - c) then (wrapOrClip clip 64 (x0 + c) (by decide)).map (cellIndex row) else none

/-- The cells of a sprite's set bits, row by row from screen row py (R161, R162). -/
def spriteCells (clip : Bool) (x0 : Nat) : Nat → List Byte → List (Fin 2048)
  | _, [] => []
  | py, b :: bs =>
    (match wrapOrClip clip 32 py (by decide) with
      | some row => rowCells clip x0 row b
      | none => []) ++ spriteCells clip x0 (py + 1) bs

/-- One set sprite bit: a hit if its pixel is on, and the pixel is flipped (R161, R167). -/
def plotCell (acc : Vector Bool 2048 × Bool) (k : Fin 2048) : Vector Bool 2048 × Bool :=
  (acc.1.set k.val (!acc.1[k.val]) k.isLt, acc.2 || acc.1[k.val])

/-- Draws the cells in order: the new screen, and whether any pixel was hit (R161). -/
def drawCells (g : Vector Bool 2048) (cells : List (Fin 2048)) : Vector Bool 2048 × Bool :=
  cells.foldl plotCell (g, false)

/-! ### Keys -/

/-- Is key k down? -/
def keyDown (s : State) (k : Key) : Bool := s.keys[k.toNat]'k.isLt

/-- keys[k] <- d (spec/40_cycle.md R100). -/
def setKey (s : State) (k : Key) (d : Bool) : State := { s with keys := s.keys.set k.toNat d k.isLt }

/-- The keys that FX0A and the blocked scan look at, in their order: 0 up to KEY_SCAN_LAST (spec/45_input.md R183). -/
def scanKeys : KeyScanLast → List Key
  | .keyE => [0x0#4, 0x1#4, 0x2#4, 0x3#4, 0x4#4, 0x5#4, 0x6#4, 0x7#4, 0x8#4, 0x9#4, 0xA#4, 0xB#4, 0xC#4, 0xD#4, 0xE#4]
  | .keyF => [0x0#4, 0x1#4, 0x2#4, 0x3#4, 0x4#4, 0x5#4, 0x6#4, 0x7#4, 0x8#4, 0x9#4, 0xA#4, 0xB#4, 0xC#4, 0xD#4, 0xE#4, 0xF#4]

/-- The first key of the scan that is down (R183). -/
def firstKeyDown (s : State) : Option Key := (scanKeys s.cfg.keyScanLast).find? (keyDown s)

/-- V[x] <- k, a key's number as a byte (spec/45_input.md R182). -/
def storeKey (s : State) (x : RegIdx) (k : Key) : State := setV s x (k.setWidth 8)

/-- blocked <- 1; blocked_reg <- x (spec/45_input.md R182). -/
def block (s : State) (x : RegIdx) : State := { s with blocked := true, blockedReg := x }

/-- The key scan of a Blocked cycle (spec/40_cycle.md R94). -/
def blockedScan (s : State) : State :=
  match firstKeyDown s with
  | some k => { storeKey s s.blockedReg k with blocked := false }
  | none => s

/-! ### Timers -/

/-- TICK_N = floor(IPS / 60) (spec/00_scope.md R4, spec/46_timers.md R194). -/
def tickN (c : Config) : Nat := c.ips / 60

/-- A timer at a tick: one less, but never below zero (spec/46_timers.md R193). -/
def countDown (t : Byte) : Byte := if t = 0x00#8 then 0x00#8 else t - 1

/-- A 60 Hz tick (R194). -/
def tick (s : State) : State :=
  { s with dt := countDown s.dt, st := countDown s.st, dwLatch := false, tickCount := 0 }

/-- The timer step at the end of a cycle (R194). -/
def timerStep (s : State) : State :=
  if s.tickCount + 1 = tickN s.cfg then tick s else { s with tickCount := s.tickCount + 1 }

/-- The end of a Running cycle: the timer step, unless the instruction raised a fatal error
(spec/40_cycle.md R90, spec/60_exceptions.md R211). -/
def finishCycle : Host.Outcome State Fault Refusal → Host.Outcome State Fault Refusal
  | .next t => .next (if t.fault.isSome then t else timerStep t)
  | .fault r => .fault r
  | .refused r => .refused r

/-! ### Random bytes -/

/-- draw_rnd(): the byte the `rnd` port gives now (spec/47_random_unimplemented.md R200), a free value. -/
def rndByte (s : State) : Byte := Config.randomByte s.draws

/-- One draw has been taken. -/
def countDraw (s : State) : State := { s with draws := s.draws + 1 }

end Sys2Proof.Machine
end

