-- ==== Sys2Proof/Machine/Operands.lean ====
section
/-! DEFINITION. The operand forms: what an instruction reads besides V[X] and its immediates. -/

namespace Sys2Proof.Machine

/-- NNN, zero-extended to 16 bits (spec/30_encoding.md R73). -/
def addrOperand (nnn : Addr) : Word := nnn.setWidth 16

/-- The address of byte k of an access through I: I + k (spec/43_memory_ops.md R156). The array reduces it
modulo 4096. -/
def indexAddr (s : State) (k : Nat) : Word := s.i + BitVec.ofNat 16 k

/-- The digit or key that a register names: its low nibble (spec/43_memory_ops.md R152, spec/45_input.md R184). -/
def lowNibble (b : Byte) : Nibble := b.setWidth 4

/-- The value that 8XY6 and 8XYE shift: V[X] in place, or V[Y] (spec/42_register_ops.md R139, R140). -/
def shiftSource (s : State) (x y : RegIdx) : Byte := if s.cfg.quirks.shifting then getV s x else getV s y

/-- The register that BNNN adds: the high nibble of NNN under quirk jumping, otherwise V0
(spec/41_control_flow.md R118). -/
def jumpSelector (s : State) (nnn : Addr) : RegIdx :=
  if s.cfg.quirks.jumping then nnn.extractLsb' 8 4 else 0x0#4

/-- The registers V0..Vx in ascending order (spec/43_memory_ops.md R154). -/
def regsThrough (x : RegIdx) : List RegIdx := (List.range (x.toNat + 1)).map (BitVec.ofNat 4)

/-- A sprite's first column: V[X] mod 64 (spec/44_display.md R164). -/
def spriteX (s : State) (x : RegIdx) : Nat := (getV s x).toNat % 64

/-- A sprite's first row: V[Y] mod 32 (spec/44_display.md R164). -/
def spriteY (s : State) (y : RegIdx) : Nat := (getV s y).toNat % 32

/-- The N bytes of a sprite, from I upward (spec/44_display.md R162). -/
def spriteBytes (s : State) (n : Nibble) : List Byte :=
  (List.range n.toNat).map fun r => memRead s (indexAddr s r)

/-- The hundreds, tens and ones of a byte (spec/43_memory_ops.md R153). -/
def bcdDigits (v : Byte) : List Byte := [v / 100#8, (v / 10#8) % 10#8, v % 10#8]

/-- I after FX55 and FX65: past the last touched address under quirk memory (spec/43_memory_ops.md R154, R155). -/
def advanceIndex (s : State) (x : RegIdx) : State :=
  if s.cfg.quirks.memory then setI s (s.i + BitVec.ofNat 16 (x.toNat + 1)) else s

end Sys2Proof.Machine
end

