-- ==== Sys2Proof/Machine/Flags.lean ====
section
/-! DEFINITION. VF, the only flag (spec/10_state.md R21, R38), and its computations. -/

namespace Sys2Proof.Machine

/-- The number of VF. -/
def vf : RegIdx := 0xF#4

/-- A flag as the byte VF takes. -/
def flagByte (b : Bool) : Byte := if b then 0x01#8 else 0x00#8

/-- VF <- the flag. -/
def setFlag (s : State) (f : Bool) : State := setV s vf (flagByte f)

/-- The VF-last order of spec/10_state.md R22: V[x] <- r, then VF <- f. With x = F the flag stays. -/
def setResultThenFlag (s : State) (x : RegIdx) (r : Byte) (f : Bool) : State := setFlag (setV s x r) f

/-- Carry of an addition: the sum is above 255 (spec/42_register_ops.md R136). -/
def carry (a b : Byte) : Bool := decide (a.toNat + b.toNat > 255)

/-- No borrow in a - b: a >= b, unsigned (spec/42_register_ops.md R137). -/
def noBorrow (a b : Byte) : Bool := decide (a.toNat ≥ b.toNat)

/-- The bit a right shift drops (spec/42_register_ops.md R139). -/
def shiftedOutRight (a : Byte) : Bool := a.getLsbD 0

/-- The bit a left shift drops (spec/42_register_ops.md R141). -/
def shiftedOutLeft (a : Byte) : Bool := a.getLsbD 7

/-- The end of 8XY1, 8XY2 and 8XY3: V[x] <- r, and VF <- 0 under quirk vf_reset (spec/42_register_ops.md R133). -/
def setBitwiseResult (s : State) (x : RegIdx) (r : Byte) : State :=
  if s.cfg.quirks.vfReset then setResultThenFlag s x r false else setV s x r

end Sys2Proof.Machine
end

