-- ==== Sys2Proof/Machine/ControlFlow.lean ====
section
/-! DEFINITION. Jumps, call, return and skips (spec/41_control_flow.md). PC already holds the fetch address
plus 2 when a meaning starts (spec/40_cycle.md R90). -/

namespace Sys2Proof.Machine

/-- 1NNN: PC <- NNN (R111). -/
def execJp (nnn : Addr) (s : State) : Host.Outcome State Fault Refusal := .next (setPc s (addrOperand nnn))

/-- 00EE: pops PC; an empty stack raises StackUnderflow first (R112). -/
def execRet (s : State) : Host.Outcome State Fault Refusal :=
  match s.stack.getLast? with
  | none => .next (raiseFatal .stackUnderflow (encode .ret) s)
  | some a => .next (setPc (dropTop s) a)

/-- 2NNN: pushes PC and jumps; a full stack raises StackOverflow first (R113, log entry 13). -/
def execCall (nnn : Addr) (s : State) : Host.Outcome State Fault Refusal :=
  if s.sp < s.cfg.stackCap then .next (setPc (push s s.pc) (addrOperand nnn))
  else .next (raiseFatal .stackOverflow (encode (.call nnn)) s)

/-- 3XNN: skip if V[X] = NN (R114). -/
def execSeImm (x : RegIdx) (nn : Byte) (s : State) : Host.Outcome State Fault Refusal :=
  .next (skipIf (getV s x == nn) s)

/-- 4XNN: skip if V[X] ≠ NN (R115). -/
def execSneImm (x : RegIdx) (nn : Byte) (s : State) : Host.Outcome State Fault Refusal :=
  .next (skipIf (getV s x != nn) s)

/-- 5XYn: skip if V[X] = V[Y] (R116); n is ignored (spec/30_encoding.md R77). -/
def execSeReg (x y : RegIdx) (s : State) : Host.Outcome State Fault Refusal :=
  .next (skipIf (getV s x == getV s y) s)

/-- 9XYn: skip if V[X] ≠ V[Y] (R117); n is ignored (spec/30_encoding.md R77). -/
def execSneReg (x y : RegIdx) (s : State) : Host.Outcome State Fault Refusal :=
  .next (skipIf (getV s x != getV s y) s)

/-- BNNN: PC <- NNN + V[r], modulo 65536 (R118). -/
def execJpV0 (nnn : Addr) (s : State) : Host.Outcome State Fault Refusal :=
  .next (setPc s (addrOperand nnn + (getV s (jumpSelector s nnn)).setWidth 16))

end Sys2Proof.Machine
end

