-- ==== Sys2Proof/Machine/Display.lean ====
section
/-! DEFINITION. The framebuffer's instructions (spec/44_display.md). -/

namespace Sys2Proof.Machine

/-- 00E0: every pixel off; VF and the display-wait latch are not touched (R160). -/
def execCls (s : State) : Host.Outcome State Fault Refusal := .next (setScreen s blankScreen)

/-- A DXYN held back by the display-wait throttle: PC <- PC - 2, so that the next cycle fetches it again (R163). -/
def retryDraw (s : State) : State := setPc s (s.pc - 2)

/-- The latch after a draw: set under quirk display_wait, otherwise not written (R163). -/
def latchDraw (s : State) : State := if s.cfg.quirks.displayWait then { s with dwLatch := true } else s

/-- The cells of the sprite that DXYN draws, from the registers, I and memory as they are (R161 to R166). -/
def drawnCells (s : State) (x y : RegIdx) (n : Nibble) : List (Fin 2048) :=
  spriteCells s.cfg.quirks.clipping (spriteX s x) (spriteY s y) (spriteBytes s n)

/-- A DXYN that draws: the screen, the latch, and VF last (R161, spec/10_state.md R22). -/
def drawSprite (s : State) (x y : RegIdx) (n : Nibble) : State :=
  let drawn := drawCells s.screen (drawnCells s x y n)
  setFlag (latchDraw (setScreen s drawn.1)) drawn.2

/-- DXYN: draws, or waits for the next tick under quirk display_wait (R161, R163). -/
def execDrw (x y : RegIdx) (n : Nibble) (s : State) : Host.Outcome State Fault Refusal :=
  if s.cfg.quirks.displayWait && s.dwLatch then .next (retryDraw s) else .next (drawSprite s x y n)

end Sys2Proof.Machine
end

