-- ==== Sys2Proof/Machine/Input.lean ====
section
/-! DEFINITION. Key skips and the wait for a key (spec/45_input.md). -/

namespace Sys2Proof.Machine

/-- EX9E: skip if the key V[X] AND 0x0F is down (R180, R184). -/
def execSkp (x : RegIdx) (s : State) : Host.Outcome State Fault Refusal :=
  .next (skipIf (keyDown s (lowNibble (getV s x))) s)

/-- EXA1: skip if the key V[X] AND 0x0F is up (R181, R184). -/
def execSknp (x : RegIdx) (s : State) : Host.Outcome State Fault Refusal :=
  .next (skipIf (!keyDown s (lowNibble (getV s x))) s)

/-- FX0A: V[X] <- the first key down, or Blocked if none is (R182, R183). -/
def execLdVxKey (x : RegIdx) (s : State) : Host.Outcome State Fault Refusal :=
  match firstKeyDown s with
  | some k => .next (storeKey s x k)
  | none => .next (block s x)

end Sys2Proof.Machine
end

