-- ==== Sys2Proof/Machine/MemoryOps.lean ====
section
/-! DEFINITION. The index register, and loads and stores (spec/43_memory_ops.md). -/

namespace Sys2Proof.Machine

/-- ANNN: I <- NNN (R150). -/
def execLdI (nnn : Addr) (s : State) : Host.Outcome State Fault Refusal := .next (setI s (addrOperand nnn))

/-- FX1E: I <- I + V[X], modulo 65536, no flag (R151). -/
def execAddI (x : RegIdx) (s : State) : Host.Outcome State Fault Refusal :=
  .next (setI s (s.i + (getV s x).setWidth 16))

/-- FX29: I <- (V[X] AND 0x0F) * 5, the glyph's address (R152). -/
def execLdFont (x : RegIdx) (s : State) : Host.Outcome State Fault Refusal :=
  .next (setI s ((lowNibble (getV s x)).setWidth 16 * 5))

/-- FX33: the three decimal digits of V[X] at I, I+1, I+2 (R153). -/
def execLdBcd (x : RegIdx) (s : State) : Host.Outcome State Fault Refusal :=
  .next (memWriteBytes s s.i (bcdDigits (getV s x)))

/-- MemWrite(I + k, 1, V[k]), one register of FX55 (R154). -/
def storeReg (s : State) (k : RegIdx) : State := memWrite s (indexAddr s k.toNat) (getV s k)

/-- V[k] <- MemRead(I + k, 1), one register of FX65 (R155). -/
def loadReg (s : State) (k : RegIdx) : State := setV s k (memRead s (indexAddr s k.toNat))

/-- FX55: V0..VX to Mem[I..], in ascending order; then I under quirk memory (R154). -/
def execStoreRegs (x : RegIdx) (s : State) : Host.Outcome State Fault Refusal :=
  .next (advanceIndex ((regsThrough x).foldl storeReg s) x)

/-- FX65: Mem[I..] to V0..VX, in ascending order; then I under quirk memory (R155). -/
def execLoadRegs (x : RegIdx) (s : State) : Host.Outcome State Fault Refusal :=
  .next (advanceIndex ((regsThrough x).foldl loadReg s) x)

end Sys2Proof.Machine
end

