-- ==== Sys2Proof/Machine/RandomLegacy.lean ====
section
/-! DEFINITION. The random byte and the unimplemented legacy call (spec/47_random_unimplemented.md). -/

namespace Sys2Proof.Machine

/-- V[X] <- r AND NN, for a byte r that the `rnd` port gave (R200). -/
def rndResult (x : RegIdx) (nn r : Byte) (s : State) : State := setV s x (r &&& nn)

/-- CXNN: V[X] <- draw_rnd() AND NN (R200). The byte drawn is a free value (log entry 7). -/
def execRnd (x : RegIdx) (nn : Byte) (s : State) : Host.Outcome State Fault Refusal :=
  .next (countDraw (rndResult x nn (rndByte s) s))

/-- 0NNN: always raises UnimplementedLegacy (R201). -/
def execSys (nnn : Addr) (s : State) : Host.Outcome State Fault Refusal :=
  .next (raiseFatal .unimplementedLegacy (encode (.sys nnn)) s)

end Sys2Proof.Machine
end

