-- ==== Sys2Proof/Machine/RegisterOps.lean ====
section
/-! DEFINITION. Register operations, the opcode ALU (spec/42_register_ops.md). -/

namespace Sys2Proof.Machine

/-- 6XNN: V[X] <- NN (R130). -/
def execLdImm (x : RegIdx) (nn : Byte) (s : State) : Host.Outcome State Fault Refusal := .next (setV s x nn)

/-- 7XNN: V[X] <- V[X] + NN modulo 256, no flag (R131). -/
def execAddImm (x : RegIdx) (nn : Byte) (s : State) : Host.Outcome State Fault Refusal :=
  .next (setV s x (getV s x + nn))

/-- 8XY0: V[X] <- V[Y] (R132). -/
def execLdReg (x y : RegIdx) (s : State) : Host.Outcome State Fault Refusal := .next (setV s x (getV s y))

/-- 8XY1: bitwise OR (R133). -/
def execOrReg (x y : RegIdx) (s : State) : Host.Outcome State Fault Refusal :=
  .next (setBitwiseResult s x (getV s x ||| getV s y))

/-- 8XY2: bitwise AND (R134). -/
def execAndReg (x y : RegIdx) (s : State) : Host.Outcome State Fault Refusal :=
  .next (setBitwiseResult s x (getV s x &&& getV s y))

/-- 8XY3: bitwise XOR (R135). -/
def execXorReg (x y : RegIdx) (s : State) : Host.Outcome State Fault Refusal :=
  .next (setBitwiseResult s x (getV s x ^^^ getV s y))

/-- 8XY4: addition, VF = carry (R136). -/
def execAddReg (x y : RegIdx) (s : State) : Host.Outcome State Fault Refusal :=
  .next (setResultThenFlag s x (getV s x + getV s y) (carry (getV s x) (getV s y)))

/-- 8XY5: V[X] - V[Y], VF = no borrow (R137). -/
def execSubReg (x y : RegIdx) (s : State) : Host.Outcome State Fault Refusal :=
  .next (setResultThenFlag s x (getV s x - getV s y) (noBorrow (getV s x) (getV s y)))

/-- 8XY7: V[Y] - V[X], VF = no borrow (R138). -/
def execSubnReg (x y : RegIdx) (s : State) : Host.Outcome State Fault Refusal :=
  .next (setResultThenFlag s x (getV s y - getV s x) (noBorrow (getV s y) (getV s x)))

/-- 8XY6: right shift, VF = the bit shifted out (R139). -/
def execShrReg (x y : RegIdx) (s : State) : Host.Outcome State Fault Refusal :=
  .next (setResultThenFlag s x (shiftSource s x y >>> 1) (shiftedOutRight (shiftSource s x y)))

/-- 8XYE: left shift, VF = the bit shifted out (R141). -/
def execShlReg (x y : RegIdx) (s : State) : Host.Outcome State Fault Refusal :=
  .next (setResultThenFlag s x (shiftSource s x y <<< 1) (shiftedOutLeft (shiftSource s x y)))

end Sys2Proof.Machine
end

