-- ==== Sys2Proof/Machine/Timers.lean ====
section
/-! DEFINITION. The timer instructions (spec/46_timers.md). The countdown is `timerStep` in Machine/Ops.lean. -/

namespace Sys2Proof.Machine

/-- FX07: V[X] <- DT (R190). -/
def execLdVxDt (x : RegIdx) (s : State) : Host.Outcome State Fault Refusal := .next (setV s x s.dt)

/-- FX15: DT <- V[X] (R191). -/
def execLdDtVx (x : RegIdx) (s : State) : Host.Outcome State Fault Refusal := .next (setDt s (getV s x))

/-- FX18: ST <- V[X] (R192). -/
def execLdStVx (x : RegIdx) (s : State) : Host.Outcome State Fault Refusal := .next (setSt s (getV s x))

end Sys2Proof.Machine
end

