-- ==== Sys2Proof/Machine/Step.lean ====
section
/-! DEFINITION. One `Cycle` command (spec/40_cycle.md R90). -/

namespace Sys2Proof.Machine

/-- cycle() (R90): refused when Faulted (R95), a key scan when Blocked (R94), else fetch, advance PC, decode and
execute (R93), then the timer step. -/
def step (s : State) : Host.Outcome State Fault Refusal :=
  if s.fault.isSome then .refused .cycleWhenFaulted
  else if s.blocked then .next (timerStep (blockedScan s))
  else
    match decode (fetchWord s) with
    | .ok i => finishCycle (exec i (advancePc s))
    | .error _ => finishCycle (.next (raiseFatal .unrecognizedOpcode (fetchWord s) (advancePc s)))

/-- The state with a table word stored where the next cycle fetches, and Running (log entry 12). -/
def State.withFetchWord (s : State) (nbits w : Nat) : State := placeWord s (tableWord nbits w)

end Sys2Proof.Machine
end

