-- ==== Sys2Proof/Machine/HostCommands.lean ====
section
/-! DEFINITION. What the host can do to the core: construction (spec/70_reset_and_hazards.md R230 to R232), the
host commands (spec/10_state.md R43, spec/40_cycle.md R96 to R100) and the output ports (spec/10_state.md R44). -/

namespace Sys2Proof.Machine

/-! ### Construction -/

/-- The arguments of construction (R4, R230). -/
structure Setup where
  /-- The ROM image. -/
  rom : List Byte
  /-- FONT, 80 bytes. -/
  font : Vector Byte 80
  /-- QUIRKS. -/
  quirks : Quirks
  /-- IPS. -/
  ips : Nat
  /-- STACK_CAP. -/
  stackCap : Nat
  /-- KEY_SCAN_LAST. -/
  keyScanLast : KeyScanLast
  /-- INIT_V. -/
  initV : Vector Byte 16
  /-- INIT_MEM, from address 0x000 up; an address past its end reads as an unlisted one (log entry 17). -/
  initMem : List Byte
deriving DecidableEq, Repr

/-- The longest ROM: 0x1000 - 0x200 bytes (R231). -/
def maxRomBytes : Nat := 3584

/-- The session's configuration. -/
def Setup.config (a : Setup) : Config :=
  { quirks := a.quirks, ips := a.ips, stackCap := a.stackCap, keyScanLast := a.keyScanLast }

/-- The state before memory is loaded: R42's column "after construction". -/
def Setup.emptyState (a : Setup) : State := { State.reset with regs := a.initV, cfg := a.config }

/-- Memory filled with INIT_MEM, then the font at 0x000, then the ROM at 0x200 (R230). -/
def Setup.builtState (a : Setup) : State :=
  memWriteBytes
    (memWriteBytes (memWriteBytes a.emptyState 0x0000#16 (a.initMem.take 4096)) 0x0000#16 a.font.toList)
    0x0200#16 a.rom

/-- new(...): checks the arguments, then builds the state (R230 to R232; the order of the checks: log entry 14). -/
def construct (a : Setup) : Host.Outcome State Fault Refusal :=
  if a.rom.length > maxRomBytes then .fault .romTooLarge
  else if a.ips < 60 then .refused .ipsTooSmall
  else if a.stackCap < 12 then .refused .stackCapTooSmall
  else .next a.builtState

/-! ### Commands -/

/-- One host command (spec/10_state.md R43). -/
inductive Command where
  | cycle
  | keyDown (k : Nat)
  | keyUp (k : Nat)
  | reset
deriving DecidableEq, Repr

/-- reset(): PC, I, the stack, the timers, the latches and the screen; V0..VF, memory, keys and the
configuration are kept (spec/70_reset_and_hazards.md R233). -/
def hostReset (s : State) : State :=
  { s with
    pc := 0x0200#16
    i := 0x0000#16
    stack := []
    dt := 0x00#8
    st := 0x00#8
    blocked := false
    dwLatch := false
    tickCount := 0
    screen := blankScreen }

/-- key_down(k) and key_up(k): refused outside 0..15 (spec/40_cycle.md R100). -/
def hostKey (k : Nat) (d : Bool) (s : State) : Host.Outcome State Fault Refusal :=
  if k < 16 then .next (setKey s (BitVec.ofNat 4 k) d) else .refused .keyOutOfRange

/-- One host step: `step` is its `cycle` command (spec/40_cycle.md R99, log entry 2). -/
def hostStep (c : Command) (s : State) : Host.Outcome State Fault Refusal :=
  match c with
  | .cycle => step s
  | .keyDown k => hostKey k true s
  | .keyUp k => hostKey k false s
  | .reset => if s.fault.isSome then .refused .resetWhenFaulted else .next (hostReset s)

/-- cycle(count): count cycles, stopping after the first that raises a fatal error (spec/40_cycle.md R96). -/
def cycles : Nat → State → Host.Outcome State Fault Refusal
  | 0, s => .next s
  | n + 1, s =>
    match step s with
    | .next t => if t.fault.isSome then .next t else cycles n t
    | .fault r => .fault r
    | .refused r => .refused r

/-- cycle_one_frame() with the adapter's refresh rate: floor(IPS / rate) cycles (spec/40_cycle.md R97). -/
def cycleOneFrame (refreshRate : Nat) (s : State) : Host.Outcome State Fault Refusal :=
  if refreshRate = 0 then .refused .refreshRateZero else cycles (s.cfg.ips / refreshRate) s

/-! ### Output ports -/

/-- The three run states (spec/40_cycle.md R92). -/
inductive RunState where
  | running
  | blocked
  | faulted
deriving DecidableEq, Repr

/-- run_state (spec/10_state.md R44, spec/40_cycle.md R92). -/
def runState (s : State) : RunState :=
  if s.fault.isSome then .faulted else if s.blocked then .blocked else .running

/-- tone: 1 exactly when ST is not 0 (spec/46_timers.md R196). -/
def tone (s : State) : Bool := s.st != 0x00#8

/-- screen_out (spec/10_state.md R44). -/
def screenOut (s : State) : Vector Bool 2048 := s.screen

/-- fault_out (spec/10_state.md R44). -/
def faultOut (s : State) : Option FaultRecord := s.fault

/-- The numeric code that fault_out reports: 0 for none (spec/60_exceptions.md R210). -/
def faultCode (s : State) : Nat :=
  match s.fault with
  | none => 0
  | some r => r.kind.code

/-- The code of the construction error RomTooLarge (spec/60_exceptions.md R210). -/
def Fault.code : Fault → Nat
  | .romTooLarge => 5

/-- snapshot(): a value copy of every element of the state (spec/10_state.md R46). -/
def snapshot (s : State) : State := s

end Sys2Proof.Machine
end

