-- ==== Sys2Proof/Safety.lean ====
section
/-! DEFINITION. The terms that claims use: what a legal state is, what a run is, and frames (what an instruction
leaves unchanged). -/

namespace Sys2Proof.Machine

/-- The parameter ranges of spec/00_scope.md R4 and spec/70_reset_and_hazards.md R232. -/
def configLegal (c : Config) : Prop := 60 ≤ c.ips ∧ 12 ≤ c.stackCap

/-- The fault record agrees with the state it was recorded in: pc is PC, and the core was not Blocked
(spec/60_exceptions.md R211, spec/40_cycle.md R92). -/
def recordMatches (r : FaultRecord) (s : State) : Prop := r.pc = s.pc ∧ s.blocked = false

/-- The legal states: the legal values of spec/10_state.md R39, and what R35 and R37 say of the latch and
the fault record. -/
structure Inv (s : State) : Prop where
  /-- Memory is in its canonical form. -/
  memory_wf : Memory.wf s.memory = true
  /-- The configuration is one that construction accepts. -/
  config_legal : configLegal s.cfg
  /-- SP is in 0..STACK_CAP. -/
  sp_le_cap : s.sp ≤ s.cfg.stackCap
  /-- tick_count is in 0..TICK_N-1. -/
  tick_lt : s.tickCount < tickN s.cfg
  /-- dw_latch is never set while quirk display_wait is false. -/
  latch_needs_quirk : s.dwLatch = true → s.cfg.quirks.displayWait = true
  /-- A fault record belongs to the state. -/
  fault_matches : ∀ r, s.fault = some r → recordMatches r s

/-- A safe state: no fatal error has been raised. -/
def safe (s : State) : Prop := s.fault = none

/-- The states some sequence of accepted host commands reaches from `s` (spec/40_cycle.md R99). -/
inductive Reaches : State → State → Prop where
  | refl (s : State) : Reaches s s
  | step (s t u : State) (c : Command) (h : Reaches s t) (hc : hostStep c t = .next u) : Reaches s u

/-! ### Frames -/

/-- The elements of the state apart from V0..VF, and the model's draw counter. -/
inductive Part where
  | pc | i | stack | memory | dt | st | screen | keys | blocked | blockedReg | dwLatch | tickCount | fault | cfg | draws
deriving DecidableEq, Repr

/-- The element is the same in both states. Memory is compared byte by byte, at every address. -/
def Part.same (s t : State) : Part → Prop
  | .pc => t.pc = s.pc
  | .i => t.i = s.i
  | .stack => t.stack = s.stack
  | .memory => ∀ a : Word, memRead t a = memRead s a
  | .dt => t.dt = s.dt
  | .st => t.st = s.st
  | .screen => t.screen = s.screen
  | .keys => t.keys = s.keys
  | .blocked => t.blocked = s.blocked
  | .blockedReg => t.blockedReg = s.blockedReg
  | .dwLatch => t.dwLatch = s.dwLatch
  | .tickCount => t.tickCount = s.tickCount
  | .fault => t.fault = s.fault
  | .cfg => t.cfg = s.cfg
  | .draws => t.draws = s.draws

/-- Every element is the same in both states except the ones listed. Registers: `regsSameBut`. -/
def sameBut (changed : List Part) (s t : State) : Prop := ∀ p : Part, p ∉ changed → p.same s t

/-- Every register is the same in both states except the ones listed. -/
def regsSameBut (changed : List RegIdx) (s t : State) : Prop := ∀ y : RegIdx, y ∉ changed → getV t y = getV s y

/-- The operation answers a next state, and the next state has the property. -/
def endsIn (o : Host.Outcome State Fault Refusal) (P : State → Prop) : Prop := ∃ t, o = .next t ∧ P t

/-! ### What a statement says in its own terms -/

/-- The core is in the Running state (spec/40_cycle.md R92). -/
def running (s : State) : Prop := s.fault = none ∧ s.blocked = false

/-- The highest key of the FX0A scan, as a number (spec/45_input.md R183). -/
def lastScanKey : KeyScanLast → Nat
  | .keyE => 0xE
  | .keyF => 0xF

/-- Key k is the lowest key in the scan range that is down (spec/45_input.md R183). -/
def firstKey (s : State) (k : Key) : Prop :=
  k.toNat ≤ lastScanKey s.cfg.keyScanLast ∧ keyDown s k = true ∧
    ∀ j : Key, j.toNat < k.toNat → keyDown s j = false

/-- No key in the scan range is down. -/
def noKey (s : State) : Prop :=
  ∀ k : Key, k.toNat ≤ lastScanKey s.cfg.keyScanLast → keyDown s k = false

/-- A coordinate p of a sprite is drawn at q on an axis of the given size: as it is when clipped, modulo the size
otherwise (spec/44_display.md R165). -/
def landsAt (clip : Bool) (size p q : Nat) : Prop := if clip then p = q else p % size = q

/-- The sprite of N rows at (V[X] mod 64, V[Y] mod 32) has a set bit on the pixel (spec/44_display.md R161 to R166): row
r is the byte at I + r, and its bit 7 - c is column c. -/
def spriteCovers (s : State) (x y : RegIdx) (n : Nibble) (row : Fin 32) (col : Fin 64) : Prop :=
  ∃ r c : Nat, r < n.toNat ∧ c < 8 ∧
    (memRead s (s.i + BitVec.ofNat 16 r)).getLsbD (7 - c) = true ∧
    landsAt s.cfg.quirks.clipping 32 ((getV s y).toNat % 32 + r) row.val ∧
    landsAt s.cfg.quirks.clipping 64 ((getV s x).toNat % 64 + c) col.val

/-- The pixel of a row and a column: cell row*64+col (spec/10_state.md R29). -/
def pixel (s : State) (row : Fin 32) (col : Fin 64) : Bool := s.screen[row.val * 64 + col.val]

/-- A state, when the operation answers one; the given one otherwise. For tests and witnesses. -/
def nextOr (o : Host.Outcome State Fault Refusal) (s : State) : State :=
  match o with
  | .next t => t
  | .fault _ => s
  | .refused _ => s

end Sys2Proof.Machine
end

