-- ==== Sys2Proof/Certificates/Slice0/Obligations.lean ====
section
/-! DEFINITION. The statements for the provers. Each docstring names the rules of spec/ it formalises. -/

section

open Sys2Proof Sys2Proof.Machine

/-! ### Encoding -/

/-- Words written out from the patterns of R84, one or more for each family.
Patterns the spec marks [from general knowledge] and its own choice D6 are among them. -/
def Obligations.SpecWordsDecode : Prop :=
  decode 0x0123#16 = .ok (.sys 0x123#12) ∧ decode 0x00E0#16 = .ok .cls ∧ decode 0x00EE#16 = .ok .ret ∧
  decode 0x2204#16 = .ok (.call 0x204#12) ∧ decode 0x3A11#16 = .ok (.seImm 0xA#4 0x11#8) ∧
  decode 0x8A14#16 = .ok (.addReg 0xA#4 0x1#4) ∧ decode 0xF355#16 = .ok (.storeRegs 0x3#4) ∧
  decode 0xD125#16 = .ok (.drw 0x1#4 0x2#4 0x5#4) ∧ decode 0xE29E#16 = .ok (.skp 0x2#4) ∧
  decode 0xF515#16 = .ok (.ldDtVx 0x5#4) ∧ decode 0xCF80#16 = .ok (.rnd 0xF#4 0x80#8) ∧
  decode 0x8018#16 = .error (.unrecognized 0x8018#16)

/-- R74, R84, R85: every well-formed instruction is what its word decodes to, with every operand at every value;
over bytes, whatever follows is left.
The encodings rest on the spec's own choices D6 and D7; that the ignored nibble n of 5XYn and 9XYn is kept as an
operand is the model's choice (log entry 10). -/
def Obligations.DecodeOfEncode : Prop :=
  ∀ (i : Instr) (rest : List Byte), i.wf = true →
    decode (encode i) = .ok i ∧ decodeBytes (encodeBytes i ++ rest) = .ok (i, rest)

/-- R74, R84: a word that decodes gives a well-formed instruction whose encoding is that word again, so no two words
share an instruction.
The encodings rest on the spec's own choices D6 and D7. That no two words share an instruction is the model's choice
(log entry 10): R77 and R85 give the same SE or SNE for every low nibble n of 5XYn and 9XYn, and the model keeps n in
`seReg` and `sneReg`. -/
def Obligations.EncodeOfDecode : Prop :=
  ∀ (w : Word) (i : Instr), decode w = .ok i → i.wf = true ∧ encode i = w

/-- R78: the words that decode to Unrecognized are exactly those of the three lists.
The spec marks the lists [derived]. -/
def Obligations.UnrecognizedWords : Prop :=
  ∀ w : Word, decode w = .error (.unrecognized w) ↔
    (fieldOp w = 0x8#4 ∧ fieldN w ∈ [0x8#4, 0x9#4, 0xA#4, 0xB#4, 0xC#4, 0xD#4, 0xF#4]) ∨
    (fieldOp w = 0xE#4 ∧ fieldNN w ∉ [0x9E#8, 0xA1#8]) ∨
    (fieldOp w = 0xF#4 ∧ fieldNN w ∉ [0x07#8, 0x0A#8, 0x15#8, 0x18#8, 0x1E#8, 0x29#8, 0x33#8, 0x55#8, 0x65#8])

/-- R76: family 0 decodes to CLS, RET, or the legacy call.
The spec's own choice D6. -/
def Obligations.FamilyZeroDecodes : Prop :=
  decode 0x00E0#16 = .ok .cls ∧ decode 0x00EE#16 = .ok .ret ∧
  ∀ w : Word, fieldOp w = 0x0#4 → w ≠ 0x00E0#16 → w ≠ 0x00EE#16 → decode w = .ok (.sys (fieldNNN w))

/-- R84: but for 0NNN with 00E0 and with 00EE, at most one row of the opcode map covers a word, and a word is
Unrecognized exactly when no row covers it.
The rows rest on the spec's own choices D6 and D7. -/
def Obligations.OpcodeRowsAreDisjoint : Prop :=
  ∀ w : Word,
    (∀ r ∈ opcodeTable, ∀ q ∈ opcodeTable, r.covers w = true → q.covers w = true → r ≠ q →
      w = 0x00E0#16 ∨ w = 0x00EE#16) ∧
    (decode w = .error (.unrecognized w) ↔ ∀ r ∈ opcodeTable, r.covers w = false)

/-! ### The cycle -/

/-- R55: the instruction word is the byte at PC mod 4096, then the byte at (PC + 1) mod 4096.
The spec's own choices D1 and D3. -/
def Obligations.FetchIsBigEndianAndWraps : Prop :=
  ∀ s : State,
    (fetchWord s).toNat =
      256 * (Memory.read s.memory (s.pc.toNat % 4096)).toNat +
        (Memory.read s.memory ((s.pc.toNat + 1) % 4096)).toNat

/-- R93: a Running cycle executes exactly the instruction that the two bytes at PC decode to, with PC already advanced
by 2, and then takes the timer step, unless the instruction raised a fatal error.
The spec marks R93 [derived]. -/
def Obligations.RunningCycleExecutesFetched : Prop :=
  ∀ (s : State) (i : Instr), running s →
    decode (wordOfBytes (Memory.read s.memory (s.pc.toNat % 4096)) (Memory.read s.memory ((s.pc.toNat + 1) % 4096))) =
      .ok i →
    ∃ t, exec i { s with pc := s.pc + 2 } = .next t ∧
      step s = .next (if t.fault = none then timerStep t else t)

/-- R94: a Blocked cycle leaves PC alone, stores the lowest key that is down and returns to Running, or changes nothing;
then it takes the timer step.
The spec's own choices D11 and D12. -/
def Obligations.BlockedCycleScansKeys : Prop :=
  ∀ s : State, s.fault = none → s.blocked = true →
    (∀ k, firstKey s k → step s = .next (timerStep { setV s s.blockedReg (k.setWidth 8) with blocked := false })) ∧
    (noKey s → step s = .next (timerStep s)) ∧
    ((∃ k, firstKey s k) ∨ noKey s) ∧
    (∀ t, step s = .next t → t.pc = s.pc)

/-- R95, R234: in the Faulted state Cycle and Reset are refused and KeyDown and KeyUp change their key only; Reset is
accepted in the other states.
The spec's own choices D5, D19 and D33. -/
def Obligations.FaultedRefusesCycleAndReset : Prop :=
  (∀ s : State, s.fault ≠ none →
    step s = .refused .cycleWhenFaulted ∧ hostStep .cycle s = .refused .cycleWhenFaulted ∧
    hostStep .reset s = .refused .resetWhenFaulted ∧
    (∀ (k : Key) (d : Bool), endsIn (hostStep (if d then .keyDown k.toNat else .keyUp k.toNat) s) fun t =>
      keyDown t k = d ∧ (∀ j, j ≠ k → keyDown t j = keyDown s j) ∧ regsSameBut [] s t ∧ sameBut [.keys] s t) ∧
    snapshot s = s) ∧
  (∀ s : State, s.fault = none → ∃ t, hostStep .reset s = .next t)

/-- R143, and R78's "executing one raises the fatal UnrecognizedOpcode": such a word faults with the record
(UnrecognizedOpcode, W, fetch address + 2), and nothing else changes but PC.
The spec marks these rules [derived]; the record is its own choice D5. -/
def Obligations.UnrecognizedWordFaults : Prop :=
  (∀ (x y : RegIdx) (n : Nibble), n ∈ [0x8#4, 0x9#4, 0xA#4, 0xB#4, 0xC#4, 0xD#4, 0xF#4] →
    decode (formXYN 0x8#4 x y n) = .error (.unrecognized (formXYN 0x8#4 x y n))) ∧
  ∀ (s : State) (w : Word), running s → fetchWord s = w → decode w = .error (.unrecognized w) →
    endsIn (step s) fun t =>
      t.fault = some { kind := .unrecognizedOpcode, opcode := w, pc := s.pc + 2 } ∧ t.pc = s.pc + 2 ∧
      regsSameBut [] s t ∧ sameBut [.fault, .pc] s t

/-- R211, R212, R213: a cycle that raises a fatal error records the fetched word and the fetch address plus 2, and changes
nothing else but PC: no timer step. No command changes the record afterwards, and no further cycle is taken.
The spec's own choices D5 and D19. -/
def Obligations.FatalErrorsArePreciseAndFinal : Prop :=
  ∀ (s t : State) (r : FaultRecord), s.fault = none → step s = .next t → t.fault = some r →
    r.opcode = fetchWord s ∧ r.pc = s.pc + 2 ∧ r.pc - 2 = s.pc ∧
    t = { s with pc := s.pc + 2, fault := some r } ∧
    step t = .refused .cycleWhenFaulted ∧
    (∀ (c : Command) (u : State), hostStep c t = .next u → u.fault = some r)

/-- R210, R214: a cycle raises a kind exactly on its own condition, and a Blocked cycle raises none.
The spec's own choices D4, D5, D6, D27 and D28; that a CALL with SP above STACK_CAP overflows too is the model's choice (log entry 13). -/
def Obligations.FatalKindsHaveTheirCauses : Prop :=
  ∀ s t : State, s.fault = none → step s = .next t →
    ((∃ r, t.fault = some r ∧ r.kind = .unrecognizedOpcode) ↔
      s.blocked = false ∧ decode (fetchWord s) = .error (.unrecognized (fetchWord s))) ∧
    ((∃ r, t.fault = some r ∧ r.kind = .stackOverflow) ↔
      s.blocked = false ∧ s.cfg.stackCap ≤ s.sp ∧ ∃ nnn, decode (fetchWord s) = .ok (.call nnn)) ∧
    ((∃ r, t.fault = some r ∧ r.kind = .stackUnderflow) ↔
      s.blocked = false ∧ s.sp = 0 ∧ fetchWord s = 0x00EE#16) ∧
    ((∃ r, t.fault = some r ∧ r.kind = .unimplementedLegacy) ↔
      s.blocked = false ∧ ∃ nnn, decode (fetchWord s) = .ok (.sys nnn)) ∧
    (faultCode t = 0 ↔ t.fault = none) ∧ faultCode t ≤ 4

/-! ### Control flow -/

/-- R111: JP addr. -/
def Obligations.JpLoadsPc : Prop :=
  ∀ (nnn : Addr) (s : State), decode (formA 0x1#4 nnn) = .ok (.jp nnn) ∧
    endsIn (exec (.jp nnn) s) fun t =>
      t.pc = nnn.setWidth 16 ∧ regsSameBut [] s t ∧ sameBut [.pc] s t

/-- R112: RET pops PC, and on an empty stack records StackUnderflow and changes nothing else.
The spec's own choices D4 and D5. -/
def Obligations.RetPopsPcOrUnderflows : Prop :=
  decode 0x00EE#16 = .ok .ret ∧
  (∀ (s : State) (below : List Word) (a : Word), s.stack = below ++ [a] →
    endsIn (exec .ret s) fun t =>
      t.pc = a ∧ t.stack = below ∧ t.sp + 1 = s.sp ∧ regsSameBut [] s t ∧ sameBut [.pc, .stack] s t) ∧
  (∀ s : State, s.sp = 0 →
    endsIn (exec .ret s) fun t =>
      t.fault = some { kind := .stackUnderflow, opcode := 0x00EE#16, pc := s.pc } ∧
      regsSameBut [] s t ∧ sameBut [.fault] s t)

/-- R113: CALL pushes PC and jumps, and on a full stack records StackOverflow and changes nothing else.
The spec's own choices D4 and D5. -/
def Obligations.CallPushesPcOrOverflows : Prop :=
  ∀ (nnn : Addr) (s : State), decode (formA 0x2#4 nnn) = .ok (.call nnn) ∧
    (s.sp < s.cfg.stackCap →
      endsIn (exec (.call nnn) s) fun t =>
        t.stack = s.stack ++ [s.pc] ∧ t.sp = s.sp + 1 ∧ t.pc = nnn.setWidth 16 ∧
        regsSameBut [] s t ∧ sameBut [.pc, .stack] s t) ∧
    (s.sp = s.cfg.stackCap →
      endsIn (exec (.call nnn) s) fun t =>
        t.fault = some { kind := .stackOverflow, opcode := formA 0x2#4 nnn, pc := s.pc } ∧
        regsSameBut [] s t ∧ sameBut [.fault] s t)

/-- R110, R112, R113: a call that does not overflow, then a return at once, comes back to the instruction after the call
with everything as it was.
The spec's own choice D4. -/
def Obligations.CallThenRetComesBack : Prop :=
  ∀ (nnn : Addr) (s t : State), s.sp < s.cfg.stackCap → exec (.call nnn) s = .next t →
    exec .ret { t with pc := t.pc + 2 } = .next s

/-- R114, R115: the skips that compare a register with an immediate.
The spec marks opcode 4XNN [from general knowledge]. -/
def Obligations.SkipsOnImmediate : Prop :=
  ∀ (x : RegIdx) (nn : Byte) (s : State),
    decode (formXB 0x3#4 x nn) = .ok (.seImm x nn) ∧ decode (formXB 0x4#4 x nn) = .ok (.sneImm x nn) ∧
    endsIn (exec (.seImm x nn) s) (fun t =>
      t.pc = (if getV s x = nn then s.pc + 2 else s.pc) ∧ regsSameBut [] s t ∧ sameBut [.pc] s t) ∧
    endsIn (exec (.sneImm x nn) s) (fun t =>
      t.pc = (if getV s x = nn then s.pc else s.pc + 2) ∧ regsSameBut [] s t ∧ sameBut [.pc] s t)

/-- R77, R116, R117: the skips that compare two registers, for every low nibble.
The spec marks these opcodes [from general knowledge], and R77 is its own choice D7. -/
def Obligations.SkipsOnRegisters : Prop :=
  ∀ (x y : RegIdx) (n : Nibble) (s : State),
    decode (formXYN 0x5#4 x y n) = .ok (.seReg x y n) ∧ decode (formXYN 0x9#4 x y n) = .ok (.sneReg x y n) ∧
    endsIn (exec (.seReg x y n) s) (fun t =>
      t.pc = (if getV s x = getV s y then s.pc + 2 else s.pc) ∧ regsSameBut [] s t ∧ sameBut [.pc] s t) ∧
    endsIn (exec (.sneReg x y n) s) (fun t =>
      t.pc = (if getV s x = getV s y then s.pc else s.pc + 2) ∧ regsSameBut [] s t ∧ sameBut [.pc] s t)

/-- R118: JP V0, addr adds V0, or V[X] under quirk jumping, modulo 65536.
The spec's own choice D3. -/
def Obligations.JpV0AddsSelectedRegister : Prop :=
  ∀ (nnn : Addr) (s : State), decode (formA 0xB#4 nnn) = .ok (.jpV0 nnn) ∧
    endsIn (exec (.jpV0 nnn) s) fun t =>
      t.pc.toNat = (nnn.toNat + (getV s (if s.cfg.quirks.jumping then fieldX (formA 0xB#4 nnn) else 0x0#4)).toNat) % 65536 ∧
      regsSameBut [] s t ∧ sameBut [.pc] s t

/-! ### Register operations -/

/-- R130: LD Vx, byte. -/
def Obligations.LdImmediateSetsRegister : Prop :=
  ∀ (x : RegIdx) (nn : Byte) (s : State), decode (formXB 0x6#4 x nn) = .ok (.ldImm x nn) ∧
    endsIn (exec (.ldImm x nn) s) fun t => getV t x = nn ∧ regsSameBut [x] s t ∧ sameBut [] s t

/-- R131: ADD Vx, byte wraps modulo 256 and writes no flag.
The spec marks the opcode [from general knowledge]. -/
def Obligations.AddImmediateWrapsWithoutFlag : Prop :=
  ∀ (x : RegIdx) (nn : Byte) (s : State), decode (formXB 0x7#4 x nn) = .ok (.addImm x nn) ∧
    endsIn (exec (.addImm x nn) s) fun t =>
      (getV t x).toNat = ((getV s x).toNat + nn.toNat) % 256 ∧ regsSameBut [x] s t ∧ sameBut [] s t

/-- R132: LD Vx, Vy.
The spec marks the opcode [from general knowledge]. -/
def Obligations.LdRegisterCopies : Prop :=
  ∀ (x y : RegIdx) (s : State), decode (formXYN 0x8#4 x y 0x0#4) = .ok (.ldReg x y) ∧
    endsIn (exec (.ldReg x y) s) fun t => getV t x = getV s y ∧ regsSameBut [x] s t ∧ sameBut [] s t

/-- R133, R134, R135: OR, AND and XOR, and VF under quirk vf_reset, with X = F too. -/
def Obligations.BitwiseOpsAndVfReset : Prop :=
  ∀ (x y : RegIdx) (s : State),
    decode (formXYN 0x8#4 x y 0x1#4) = .ok (.orReg x y) ∧ decode (formXYN 0x8#4 x y 0x2#4) = .ok (.andReg x y) ∧
    decode (formXYN 0x8#4 x y 0x3#4) = .ok (.xorReg x y) ∧
    ∀ i r, (i, r) ∈ [(Instr.orReg x y, getV s x ||| getV s y), (Instr.andReg x y, getV s x &&& getV s y),
        (Instr.xorReg x y, getV s x ^^^ getV s y)] →
      endsIn (exec i s) fun t =>
        (s.cfg.quirks.vfReset = true → getV t 0xF#4 = 0x00#8 ∧ (x ≠ 0xF#4 → getV t x = r) ∧ regsSameBut [x, 0xF#4] s t) ∧
        (s.cfg.quirks.vfReset = false → getV t x = r ∧ regsSameBut [x] s t) ∧
        sameBut [] s t

/-- R136: ADD Vx, Vy, with VF = carry written last.
The spec marks the opcode [from general knowledge]. -/
def Obligations.AddRegistersSetsCarry : Prop :=
  ∀ (x y : RegIdx) (s : State), decode (formXYN 0x8#4 x y 0x4#4) = .ok (.addReg x y) ∧
    endsIn (exec (.addReg x y) s) fun t =>
      getV t 0xF#4 = (if (getV s x).toNat + (getV s y).toNat > 255 then 0x01#8 else 0x00#8) ∧
      (x ≠ 0xF#4 → (getV t x).toNat = ((getV s x).toNat + (getV s y).toNat) % 256) ∧
      regsSameBut [x, 0xF#4] s t ∧ sameBut [] s t

/-- R137: SUB Vx, Vy, with VF = no borrow written last. -/
def Obligations.SubRegistersSetsNoBorrow : Prop :=
  ∀ (x y : RegIdx) (s : State), decode (formXYN 0x8#4 x y 0x5#4) = .ok (.subReg x y) ∧
    endsIn (exec (.subReg x y) s) fun t =>
      getV t 0xF#4 = (if (getV s x).toNat ≥ (getV s y).toNat then 0x01#8 else 0x00#8) ∧
      (x ≠ 0xF#4 → ((getV t x).toNat : Int) = ((getV s x).toNat - (getV s y).toNat : Int) % 256) ∧
      regsSameBut [x, 0xF#4] s t ∧ sameBut [] s t

/-- R138: SUBN Vx, Vy, with VF = no borrow written last.
The spec marks the opcode and its operand order [from general knowledge]. -/
def Obligations.SubnRegistersSetsNoBorrow : Prop :=
  ∀ (x y : RegIdx) (s : State), decode (formXYN 0x8#4 x y 0x7#4) = .ok (.subnReg x y) ∧
    endsIn (exec (.subnReg x y) s) fun t =>
      getV t 0xF#4 = (if (getV s y).toNat ≥ (getV s x).toNat then 0x01#8 else 0x00#8) ∧
      (x ≠ 0xF#4 → ((getV t x).toNat : Int) = ((getV s y).toNat - (getV s x).toNat : Int) % 256) ∧
      regsSameBut [x, 0xF#4] s t ∧ sameBut [] s t

/-- R139, R140, R141: the shifts of V[X] in place or of V[Y], with VF = the bit shifted out written last. -/
def Obligations.ShiftsSetShiftedOutBit : Prop :=
  ∀ (x y : RegIdx) (s : State) (src : Byte), src = (if s.cfg.quirks.shifting then getV s x else getV s y) →
    decode (formXYN 0x8#4 x y 0x6#4) = .ok (.shrReg x y) ∧ decode (formXYN 0x8#4 x y 0xE#4) = .ok (.shlReg x y) ∧
    endsIn (exec (.shrReg x y) s) (fun t =>
      (getV t 0xF#4).toNat = src.toNat % 2 ∧ (x ≠ 0xF#4 → (getV t x).toNat = src.toNat / 2) ∧
      regsSameBut [x, 0xF#4] s t ∧ sameBut [] s t) ∧
    endsIn (exec (.shlReg x y) s) (fun t =>
      (getV t 0xF#4).toNat = src.toNat / 128 ∧ (x ≠ 0xF#4 → (getV t x).toNat = src.toNat * 2 % 256) ∧
      regsSameBut [x, 0xF#4] s t ∧ sameBut [] s t)

/-- R21: VF changes only in a flag writer, or in an ordinary register write with X = F; 7XNN with X ≠ F and FX1E
never write it. -/
def Obligations.VfChangesOnlyInItsWriters : Prop :=
  ∀ (i : Instr) (s t : State), exec i s = .next t → getV t 0xF#4 ≠ getV s 0xF#4 →
    (∃ x y, i = .addReg x y ∨ i = .subReg x y ∨ i = .subnReg x y ∨ i = .shrReg x y ∨ i = .shlReg x y) ∨
    (∃ x y n, i = .drw x y n) ∨
    (∃ x y, (i = .orReg x y ∨ i = .andReg x y ∨ i = .xorReg x y) ∧ (s.cfg.quirks.vfReset = true ∨ x = 0xF#4)) ∨
    (∃ nn, i = .ldImm 0xF#4 nn ∨ i = .addImm 0xF#4 nn ∨ i = .rnd 0xF#4 nn) ∨ (∃ y, i = .ldReg 0xF#4 y) ∨
    i = .ldVxDt 0xF#4 ∨ i = .ldVxKey 0xF#4 ∨ i = .loadRegs 0xF#4

/-! ### Memory operations -/

/-- R150, R151, R152: the instructions that set I without touching memory.
The spec's own choices D2 and D13; it marks FX29 [from general knowledge]. -/
def Obligations.IndexInstructionsSetI : Prop :=
  ∀ (nnn : Addr) (x : RegIdx) (s : State),
    decode (formA 0xA#4 nnn) = .ok (.ldI nnn) ∧ decode (formXB 0xF#4 x 0x1E#8) = .ok (.addI x) ∧
    decode (formXB 0xF#4 x 0x29#8) = .ok (.ldFont x) ∧
    endsIn (exec (.ldI nnn) s) (fun t => t.i.toNat = nnn.toNat ∧ regsSameBut [] s t ∧ sameBut [.i] s t) ∧
    endsIn (exec (.addI x) s) (fun t =>
      t.i.toNat = (s.i.toNat + (getV s x).toNat) % 65536 ∧ regsSameBut [] s t ∧ sameBut [.i] s t) ∧
    endsIn (exec (.ldFont x) s) (fun t =>
      t.i.toNat = (getV s x).toNat % 16 * 5 ∧ regsSameBut [] s t ∧ sameBut [.i] s t)

/-- R153: FX33 writes the hundreds, tens and ones at I, I+1 and I+2, each modulo 4096, and no other byte.
The spec marks the opcode [from general knowledge]; the wrap is its own choice D1. -/
def Obligations.BcdStoresThreeDigits : Prop :=
  ∀ (x : RegIdx) (s : State), decode (formXB 0xF#4 x 0x33#8) = .ok (.ldBcd x) ∧
    endsIn (exec (.ldBcd x) s) fun t =>
      (memRead t (indexAddr s 0)).toNat = (getV s x).toNat / 100 ∧
      (memRead t (indexAddr s 1)).toNat = (getV s x).toNat / 10 % 10 ∧
      (memRead t (indexAddr s 2)).toNat = (getV s x).toNat % 10 ∧
      (∀ a : Word, (∀ k < 3, memAddr a ≠ memAddr (indexAddr s k)) → memRead t a = memRead s a) ∧
      regsSameBut [] s t ∧ sameBut [.memory] s t

/-- R154: FX55 stores V0..VX at I.., each address modulo 4096, and no other byte; I advances under quirk memory.
Addresses modulo 4096 and I in 16 bits past 0xFFF are the spec's own choices D1 and D2 (log entry 11). -/
def Obligations.StoreRangeWritesRegisters : Prop :=
  ∀ (x : RegIdx) (s : State), decode (formXB 0xF#4 x 0x55#8) = .ok (.storeRegs x) ∧
    endsIn (exec (.storeRegs x) s) fun t =>
      (∀ k : RegIdx, k.toNat ≤ x.toNat → memRead t (indexAddr s k.toNat) = getV s k) ∧
      (∀ a : Word, (∀ k ≤ x.toNat, memAddr a ≠ memAddr (indexAddr s k)) → memRead t a = memRead s a) ∧
      t.i = (if s.cfg.quirks.memory then s.i + BitVec.ofNat 16 (x.toNat + 1) else s.i) ∧
      regsSameBut [] s t ∧ sameBut [.memory, .i] s t

/-- R155: FX65 loads V0..VX from Mem[I..], each address modulo 4096; I advances under quirk memory.
Addresses modulo 4096 and I in 16 bits past 0xFFF are the spec's own choices D1 and D2 (log entry 11). -/
def Obligations.LoadRangeReadsRegisters : Prop :=
  ∀ (x : RegIdx) (s : State), decode (formXB 0xF#4 x 0x65#8) = .ok (.loadRegs x) ∧
    endsIn (exec (.loadRegs x) s) fun t =>
      (∀ k : RegIdx, getV t k = if k.toNat ≤ x.toNat then memRead s (indexAddr s k.toNat) else getV s k) ∧
      t.i = (if s.cfg.quirks.memory then s.i + BitVec.ofNat 16 (x.toNat + 1) else s.i) ∧
      sameBut [.i] s t

/-- R157: FX55, then FX65 with the same X, with I as before (under quirk memory it is restored), gives V0..VX back,
whatever the registers hold in between.
The spec marks R157 [derived]. -/
def Obligations.StoreLoadRoundTrip : Prop :=
  ∀ (x : RegIdx) (s t m u : State), exec (.storeRegs x) s = .next t →
    (∀ a : Word, memRead m a = memRead t a) → m.i = s.i → exec (.loadRegs x) m = .next u →
    ∀ k : RegIdx, k.toNat ≤ x.toNat → getV u k = getV s k

/-- R63, R237: a store is seen by the next fetch, even when it writes the word at PC: the cycle after an FX55 of two or
more registers at PC fetches V0 : V1.
The spec's own choice D26. -/
def Obligations.StoreIsSeenByNextFetch : Prop :=
  ∀ (x : RegIdx) (s t : State), 1 ≤ x.toNat → s.i = s.pc → exec (.storeRegs x) s = .next t →
    fetchWord (timerStep t) = wordOfBytes (getV s 0x0#4) (getV s 0x1#4)

/-- The model's memory is canonical: two memories in that form that read the same at every address are the same list
(R50; the form is the model's own choice, log entry 5). -/
def Obligations.CanonicalMemoryIsUnique : Prop :=
  ∀ m n : Memory, Memory.wf m = true → Memory.wf n = true →
    (∀ a < 4096, Memory.read m a = Memory.read n a) → m = n

/-! ### Display -/

/-- R160: CLS turns every pixel off and touches nothing else; a second one leaves the screen as it is.
That the latch is not touched is the spec's own choice D31. -/
def Obligations.ClsClearsScreen : Prop :=
  decode 0x00E0#16 = .ok .cls ∧
  ∀ s : State, endsIn (exec .cls s) fun t =>
    (∀ row col, pixel t row col = false) ∧ regsSameBut [] s t ∧ sameBut [.screen] s t ∧ exec .cls t = .next t

/-- R161, R162, R164, R165, R166, R167, R168: a DXYN that is not held back flips exactly the pixels that the sprite's set
bits cover, sets VF to 1 exactly when one of them was on (also with X or Y = F, and for N = 0), and sets the latch under
quirk display_wait. R163: one that is held back only moves PC back.
The spec's own choices D1, D10, D14 and D15. -/
def Obligations.DrwFlipsCoveredPixels : Prop :=
  ∀ (x y : RegIdx) (n : Nibble) (s : State), decode (formXYN 0xD#4 x y n) = .ok (.drw x y n) ∧
    (¬(s.cfg.quirks.displayWait = true ∧ s.dwLatch = true) →
      endsIn (exec (.drw x y n) s) fun t =>
        (∀ row col, spriteCovers s x y n row col → pixel t row col = !pixel s row col) ∧
        (∀ row col, ¬spriteCovers s x y n row col → pixel t row col = pixel s row col) ∧
        ((∃ row col, spriteCovers s x y n row col ∧ pixel s row col = true) → getV t 0xF#4 = 0x01#8) ∧
        ((¬∃ row col, spriteCovers s x y n row col ∧ pixel s row col = true) → getV t 0xF#4 = 0x00#8) ∧
        t.dwLatch = (s.cfg.quirks.displayWait || s.dwLatch) ∧
        regsSameBut [0xF#4] s t ∧ sameBut [.screen, .dwLatch] s t) ∧
    (s.cfg.quirks.displayWait = true → s.dwLatch = true →
      endsIn (exec (.drw x y n) s) fun t => t.pc = s.pc - 2 ∧ regsSameBut [] s t ∧ sameBut [.pc] s t)

/-- R163, R194: at most one draw in a tick. A Running cycle at a DXYN with the latch set, under quirk display_wait, comes
back to the same DXYN with screen, registers and I as they were; the latch stays set until the tick and is clear after it.
The spec's own choice D10. -/
def Obligations.DisplayWaitRetriesUntilTick : Prop :=
  ∀ (s : State) (x y : RegIdx) (n : Nibble), running s → s.cfg.quirks.displayWait = true → s.dwLatch = true →
    decode (fetchWord s) = .ok (.drw x y n) →
    endsIn (step s) fun t =>
      t.pc = s.pc ∧ decode (fetchWord t) = .ok (.drw x y n) ∧
      (t.dwLatch = false ↔ s.tickCount + 1 = tickN s.cfg) ∧
      regsSameBut [] s t ∧ sameBut [.dt, .st, .dwLatch, .tickCount] s t

/-- R161, R167: drawing the same sprite twice restores the screen, and the second draw collides exactly when the sprite
covers a pixel that was off.
The pixels rest on the spec's own choices D14 and D15. -/
def Obligations.DrawingTwiceRestoresScreen : Prop :=
  ∀ (x y : RegIdx) (n : Nibble) (s t u : State), s.cfg.quirks.displayWait = false → x ≠ 0xF#4 → y ≠ 0xF#4 →
    exec (.drw x y n) s = .next t → exec (.drw x y n) t = .next u →
    u.screen = s.screen ∧
    (getV u 0xF#4 = 0x01#8 ↔ ∃ row col, spriteCovers s x y n row col ∧ pixel s row col = false)

/-! ### Input -/

/-- R180, R181, R184: the key skips, by the low nibble of V[X].
The spec's own choice D13; it marks the opcodes [from general knowledge]. -/
def Obligations.KeySkipsTestKey : Prop :=
  ∀ (x : RegIdx) (s : State) (k : Key), k.toNat = (getV s x).toNat % 16 →
    decode (formXB 0xE#4 x 0x9E#8) = .ok (.skp x) ∧ decode (formXB 0xE#4 x 0xA1#8) = .ok (.sknp x) ∧
    endsIn (exec (.skp x) s) (fun t =>
      t.pc = (if keyDown s k then s.pc + 2 else s.pc) ∧ regsSameBut [] s t ∧ sameBut [.pc] s t) ∧
    endsIn (exec (.sknp x) s) (fun t =>
      t.pc = (if keyDown s k then s.pc else s.pc + 2) ∧ regsSameBut [] s t ∧ sameBut [.pc] s t)

/-- R182, R183: FX0A stores the lowest key of its scan range that is down, or blocks with X kept; PC stays.
The spec's own choices D11 and D12. -/
def Obligations.KeyWaitStoresOrBlocks : Prop :=
  ∀ (x : RegIdx) (s : State), decode (formXB 0xF#4 x 0x0A#8) = .ok (.ldVxKey x) ∧
    (∀ k, firstKey s k → endsIn (exec (.ldVxKey x) s) fun t =>
      (getV t x).toNat = k.toNat ∧ regsSameBut [x] s t ∧ sameBut [] s t) ∧
    (noKey s → endsIn (exec (.ldVxKey x) s) fun t =>
      t.blocked = true ∧ t.blockedReg = x ∧ regsSameBut [] s t ∧ sameBut [.blocked, .blockedReg] s t)

/-! ### Timers -/

/-- R190, R191, R192, R196: the timer instructions, and the tone.
The spec marks the opcodes [from general knowledge]; the tone is its own choice D22. -/
def Obligations.TimerInstructionsMoveTimers : Prop :=
  ∀ (x : RegIdx) (s : State),
    decode (formXB 0xF#4 x 0x07#8) = .ok (.ldVxDt x) ∧ decode (formXB 0xF#4 x 0x15#8) = .ok (.ldDtVx x) ∧
    decode (formXB 0xF#4 x 0x18#8) = .ok (.ldStVx x) ∧
    endsIn (exec (.ldVxDt x) s) (fun t => getV t x = s.dt ∧ regsSameBut [x] s t ∧ sameBut [] s t) ∧
    endsIn (exec (.ldDtVx x) s) (fun t => t.dt = getV s x ∧ regsSameBut [] s t ∧ sameBut [.dt] s t) ∧
    endsIn (exec (.ldStVx x) s) (fun t =>
      t.st = getV s x ∧ (tone t = true ↔ getV s x ≠ 0x00#8) ∧ regsSameBut [] s t ∧ sameBut [.st] s t) ∧
    (tone s = true ↔ s.st ≠ 0x00#8)

/-- R193, R194: the timer step counts, and at TICK_N = floor(IPS/60) takes a tick, at which each timer goes down by one
but never below zero and the latch clears.
TICK_N and what is counted are the spec's own choice D9. -/
def Obligations.TimerStepCountsAndTicks : Prop :=
  ∀ s : State,
    (s.tickCount + 1 = s.cfg.ips / 60 →
      (timerStep s).dt.toNat = s.dt.toNat - 1 ∧ (timerStep s).st.toNat = s.st.toNat - 1 ∧
      (timerStep s).dwLatch = false ∧ (timerStep s).tickCount = 0) ∧
    (s.tickCount + 1 ≠ s.cfg.ips / 60 →
      (timerStep s).dt = s.dt ∧ (timerStep s).st = s.st ∧ (timerStep s).dwLatch = s.dwLatch ∧
      (timerStep s).tickCount = s.tickCount + 1) ∧
    regsSameBut [] s (timerStep s) ∧ sameBut [.dt, .st, .dwLatch, .tickCount] s (timerStep s)

/-- R98: all effects of an instruction come before the timer step of its cycle: a DT or ST written in a cycle that ends
with a tick is already one lower at its end, and a latch set in it is clear.
The spec marks R98 [derived]. -/
def Obligations.EffectsComeBeforeTimerStep : Prop :=
  ∀ (s : State) (x y : RegIdx) (n : Nibble), running s → s.tickCount + 1 = tickN s.cfg →
    (decode (fetchWord s) = .ok (.ldDtVx x) → endsIn (step s) fun t => t.dt.toNat = (getV s x).toNat - 1) ∧
    (decode (fetchWord s) = .ok (.ldStVx x) → endsIn (step s) fun t => t.st.toNat = (getV s x).toNat - 1) ∧
    (decode (fetchWord s) = .ok (.drw x y n) → endsIn (step s) fun t => t.dwLatch = false)

/-- R193, R194, R241: after m timer steps with TICK_N = N, from tick count t, DT and ST are lower by the (t + m) / N
ticks that have passed, floored at zero.
The spec marks R241 [derived]. -/
def Obligations.TimersCountDownOverCycles : Prop :=
  ∀ (m : Nat) (s : State), s.tickCount < tickN s.cfg →
    (timerStep^[m] s).dt.toNat = s.dt.toNat - (s.tickCount + m) / tickN s.cfg ∧
    (timerStep^[m] s).st.toNat = s.st.toNat - (s.tickCount + m) / tickN s.cfg ∧
    (timerStep^[m] s).tickCount = (s.tickCount + m) % tickN s.cfg

/-! ### Random byte and legacy call -/

/-- R200: CXNN takes one draw and stores it AND NN; whatever the draw, bits outside NN are 0 and NN = 0xFF gives the
draw itself. The draw counter is the model's own (log entry 7).
The spec's own choice D21; it marks the opcode [from general knowledge]. -/
def Obligations.RndStoresMaskedDraw : Prop :=
  ∀ (x : RegIdx) (nn : Byte) (s : State), decode (formXB 0xC#4 x nn) = .ok (.rnd x nn) ∧
    endsIn (exec (.rnd x nn) s) fun t =>
      getV t x = Config.randomByte s.draws &&& nn ∧ t.draws = s.draws + 1 ∧
      (∀ k, nn.getLsbD k = false → (getV t x).getLsbD k = false) ∧
      (nn = 0xFF#8 → getV t x = Config.randomByte s.draws) ∧
      regsSameBut [x] s t ∧ sameBut [.draws] s t

/-- R201: SYS addr always records UnimplementedLegacy with its word, and changes nothing else.
The spec's own choices D5 and D6; it marks the pattern [from general knowledge]. -/
def Obligations.SysRaisesUnimplementedLegacy : Prop :=
  ∀ (nnn : Addr) (s : State),
    (nnn ≠ 0x0E0#12 → nnn ≠ 0x0EE#12 → decode (formA 0x0#4 nnn) = .ok (.sys nnn)) ∧
    endsIn (exec (.sys nnn) s) fun t =>
      t.fault = some { kind := .unimplementedLegacy, opcode := formA 0x0#4 nnn, pc := s.pc } ∧
      regsSameBut [] s t ∧ sameBut [.fault] s t

/-! ### Rules about the whole machine -/

/-- R24, R25, R29, R56: only the instructions those rules list change I, the stack, the screen and memory.
The elements rest on the spec's own choices D2 and D4. -/
def Obligations.OnlyListedInstructionsWriteStores : Prop :=
  ∀ (i : Instr) (s t : State), exec i s = .next t →
    (t.stack ≠ s.stack → i = .ret ∨ ∃ nnn, i = .call nnn) ∧
    (t.screen ≠ s.screen → i = .cls ∨ ∃ x y n, i = .drw x y n) ∧
    (t.memory ≠ s.memory → ∃ x, i = .ldBcd x ∨ i = .storeRegs x) ∧
    (t.i ≠ s.i → (∃ nnn, i = .ldI nnn) ∨ (∃ x, i = .addI x ∨ i = .ldFont x) ∨
      (s.cfg.quirks.memory = true ∧ ∃ x, i = .storeRegs x ∨ i = .loadRegs x))

/-- R23, R28, R33, R34, R35, R36: only the instructions those rules list change DT, ST, the two latches, blocked_reg and
PC, and none changes the tick count.
The elements rest on the spec's own choices D3, D9, D10 and D11. -/
def Obligations.OnlyListedInstructionsWriteControl : Prop :=
  ∀ (i : Instr) (s t : State), exec i s = .next t →
    (t.dt ≠ s.dt → ∃ x, i = .ldDtVx x) ∧ (t.st ≠ s.st → ∃ x, i = .ldStVx x) ∧
    (t.dwLatch ≠ s.dwLatch → s.cfg.quirks.displayWait = true ∧ ∃ x y n, i = .drw x y n) ∧
    (t.blocked ≠ s.blocked ∨ t.blockedReg ≠ s.blockedReg → ∃ x, i = .ldVxKey x) ∧
    t.tickCount = s.tickCount ∧
    (t.pc ≠ s.pc → i = .ret ∨ (∃ nnn, i = .jp nnn ∨ i = .call nnn ∨ i = .jpV0 nnn) ∨
      (∃ x nn, i = .seImm x nn ∨ i = .sneImm x nn) ∨ (∃ x y n, i = .seReg x y n ∨ i = .sneReg x y n) ∨
      (∃ x, i = .skp x ∨ i = .sknp x) ∨ (s.cfg.quirks.displayWait = true ∧ ∃ x y n, i = .drw x y n))

/-- R30, R32: no cycle changes the keys, and no host command changes the quirks or the rest of the configuration.
The configuration as a part of the state is the model's choice (log entry 3). -/
def Obligations.KeysAndQuirksAreInputs : Prop :=
  (∀ s t : State, step s = .next t → t.keys = s.keys) ∧
  (∀ (c : Command) (s t : State), hostStep c s = .next t → t.cfg = s.cfg)

/-! ### Construction, reset and host commands -/

/-- R42, R53, R230: what the machine holds right after construction with an empty ROM; the font bytes are the spec's
default table (log entry 6), and V0..VF and the other memory bytes are the model's choice, of which nothing is said.
The values are the spec's own choices D16 and D18. -/
def Obligations.ResetStateHoldsSpecValues : Prop :=
  State.reset.pc = 0x0200#16 ∧ State.reset.i = 0x0000#16 ∧ State.reset.sp = 0 ∧ State.reset.dt = 0x00#8 ∧
  State.reset.st = 0x00#8 ∧ (∀ row col, pixel State.reset row col = false) ∧
  (∀ k, keyDown State.reset k = false) ∧ State.reset.blocked = false ∧ State.reset.dwLatch = false ∧
  State.reset.tickCount = 0 ∧ State.reset.fault = none ∧ runState State.reset = .running ∧
  (∀ a : Word, a.toNat < 80 → some (memRead State.reset a) = defaultFont[a.toNat]?) ∧
  tickN State.reset.cfg = 10

/-- R230, R52: construction with legal arguments builds the state of R42's column "after construction".
The spec's own choices D16, D17 and D18. -/
def Obligations.ConstructionBuildsState : Prop :=
  ∀ a : Setup, a.rom.length ≤ 3584 → 60 ≤ a.ips → 12 ≤ a.stackCap →
    endsIn (construct a) fun s =>
      s.pc = 0x0200#16 ∧ s.i = 0x0000#16 ∧ s.sp = 0 ∧ s.dt = 0x00#8 ∧ s.st = 0x00#8 ∧
      (∀ row col, pixel s row col = false) ∧ (∀ k, keyDown s k = false) ∧ s.blocked = false ∧ s.dwLatch = false ∧
      s.tickCount = 0 ∧ s.fault = none ∧ s.regs = a.initV ∧
      s.cfg = { quirks := a.quirks, ips := a.ips, stackCap := a.stackCap, keyScanLast := a.keyScanLast } ∧
      (∀ b : Word, b.toNat < 80 → some (memRead s b) = a.font.toList[b.toNat]?) ∧
      (∀ b : Word, 512 ≤ b.toNat → b.toNat < 512 + a.rom.length → some (memRead s b) = a.rom[b.toNat - 512]?) ∧
      (∀ b : Word, 80 ≤ b.toNat → b.toNat < 4096 → ¬(512 ≤ b.toNat ∧ b.toNat < 512 + a.rom.length) →
        b.toNat < a.initMem.length → some (memRead s b) = a.initMem[b.toNat]?)

/-- R231, R232: a ROM over 3584 bytes is RomTooLarge, IPS below 60 and STACK_CAP below 12 are refused, and every other
construction is accepted.
The spec's own choices D4, D9 and D20; that the ROM is checked first is the model's choice (log entry 14). -/
def Obligations.ConstructionChecksArguments : Prop :=
  ∀ a : Setup,
    (3584 < a.rom.length → construct a = .fault .romTooLarge) ∧
    (a.rom.length ≤ 3584 → a.ips < 60 ∨ a.stackCap < 12 → ∃ r, construct a = .refused r) ∧
    (a.rom.length ≤ 3584 → 60 ≤ a.ips → 12 ≤ a.stackCap → ∃ s, construct a = .next s)

/-- R233: what reset() sets and what it keeps.
The spec's own choice D18; the draw counter, and that reset() keeps it, are the model's choice (log entry 7). -/
def Obligations.HostResetReinitializes : Prop :=
  ∀ s : State, s.fault = none →
    endsIn (hostStep .reset s) fun t =>
      t.pc = 0x0200#16 ∧ t.i = 0x0000#16 ∧ t.sp = 0 ∧ t.dt = 0x00#8 ∧ t.st = 0x00#8 ∧ t.blocked = false ∧
      t.dwLatch = false ∧ t.tickCount = 0 ∧ (∀ row col, pixel t row col = false) ∧ regsSameBut [] s t ∧
      sameBut [.pc, .i, .stack, .dt, .st, .blocked, .blockedReg, .dwLatch, .tickCount, .screen] s t

/-- R100: KeyDown and KeyUp set their key and nothing else; an index outside 0..15 is refused.
The refusal is the spec's own choice D30. -/
def Obligations.KeyCommandsSetOneKey : Prop :=
  ∀ (s : State) (k : Nat),
    (∀ h : k < 16,
      endsIn (hostStep (.keyDown k) s) (fun t =>
        t.keys[k] = true ∧ (∀ j : Key, j.toNat ≠ k → keyDown t j = keyDown s j) ∧ regsSameBut [] s t ∧ sameBut [.keys] s t) ∧
      endsIn (hostStep (.keyUp k) s) (fun t =>
        t.keys[k] = false ∧ (∀ j : Key, j.toNat ≠ k → keyDown t j = keyDown s j) ∧ regsSameBut [] s t ∧ sameBut [.keys] s t)) ∧
    (16 ≤ k → hostStep (.keyDown k) s = .refused .keyOutOfRange ∧ hostStep (.keyUp k) s = .refused .keyOutOfRange)

/-- R96: cycle(0) changes nothing, cycle(m + n) is cycle(m) and then cycle(n), and after the first cycle that raises a
fatal error no other runs. -/
def Obligations.CyclesRunInSequence : Prop :=
  (∀ s : State, cycles 0 s = .next s) ∧
  (∀ s : State, s.fault = none → cycles 1 s = step s) ∧
  (∀ (m n : Nat) (s t : State), cycles m s = .next t → t.fault = none → cycles (m + n) s = cycles n t) ∧
  (∀ (m n : Nat) (s t : State), s.fault = none → cycles m s = .next t → t.fault ≠ none → cycles (m + n) s = .next t)

/-! ### Invariants -/

/-- The state after reset is legal (R39, R42).
The form of memory and the default quirks are the model's choice (log entries 3 and 5). -/
def Obligations.ResetStateIsLegal : Prop := Inv State.reset

/-- Every cycle keeps a state legal, from every legal state (R35, R37, R39, R211; the canonical form of memory is the
model's own choice, log entry 5).
The rules are the spec's own choices D5, D9 and D10. -/
def Obligations.EveryCycleKeepsLegal : Prop := ∀ s t : State, Inv s → step s = .next t → Inv t

/-- Every machine that construction builds, with any ROM, font and parameters, is legal, and stays legal under every
sequence of host commands.
The rules are the spec's own choices D5, D9, D10 and D18; the canonical form of memory is the model's choice (log
entry 5). -/
def Obligations.EveryReachableStateIsLegal : Prop :=
  ∀ (a : Setup) (s t : State), construct a = .next s → Reaches s t → Inv t

end
end

