-- ==== Sys2Proof/Laws/State.lean ====
section
/-! SUPPORT. One lemma per field of the state per update, true by rfl, so that no later proof unfolds a record
update; and the reads of a register, a byte and a key through the updates that leave them alone. -/

namespace Sys2Proof.Machine

variable (s : State)

/-! ### setV -/

@[simp] theorem setV_regs (x : RegIdx) (b : Byte) : (setV s x b).regs = s.regs.set x.toNat b x.isLt := rfl
@[simp] theorem setV_i (x : RegIdx) (b : Byte) : (setV s x b).i = s.i := rfl
@[simp] theorem setV_pc (x : RegIdx) (b : Byte) : (setV s x b).pc = s.pc := rfl
@[simp] theorem setV_stack (x : RegIdx) (b : Byte) : (setV s x b).stack = s.stack := rfl
@[simp] theorem setV_memory (x : RegIdx) (b : Byte) : (setV s x b).memory = s.memory := rfl
@[simp] theorem setV_dt (x : RegIdx) (b : Byte) : (setV s x b).dt = s.dt := rfl
@[simp] theorem setV_st (x : RegIdx) (b : Byte) : (setV s x b).st = s.st := rfl
@[simp] theorem setV_screen (x : RegIdx) (b : Byte) : (setV s x b).screen = s.screen := rfl
@[simp] theorem setV_keys (x : RegIdx) (b : Byte) : (setV s x b).keys = s.keys := rfl
@[simp] theorem setV_blocked (x : RegIdx) (b : Byte) : (setV s x b).blocked = s.blocked := rfl
@[simp] theorem setV_blockedReg (x : RegIdx) (b : Byte) : (setV s x b).blockedReg = s.blockedReg := rfl
@[simp] theorem setV_dwLatch (x : RegIdx) (b : Byte) : (setV s x b).dwLatch = s.dwLatch := rfl
@[simp] theorem setV_tickCount (x : RegIdx) (b : Byte) : (setV s x b).tickCount = s.tickCount := rfl
@[simp] theorem setV_fault (x : RegIdx) (b : Byte) : (setV s x b).fault = s.fault := rfl
@[simp] theorem setV_cfg (x : RegIdx) (b : Byte) : (setV s x b).cfg = s.cfg := rfl
@[simp] theorem setV_draws (x : RegIdx) (b : Byte) : (setV s x b).draws = s.draws := rfl
@[simp] theorem memRead_setV (x : RegIdx) (b : Byte) (c : Word) : memRead (setV s x b) c = memRead s c := rfl
@[simp] theorem keyDown_setV (x : RegIdx) (b : Byte) (j : Key) : keyDown (setV s x b) j = keyDown s j := rfl

/-! ### setPc -/

@[simp] theorem setPc_regs (a : Word) : (setPc s a).regs = s.regs := rfl
@[simp] theorem setPc_i (a : Word) : (setPc s a).i = s.i := rfl
@[simp] theorem setPc_pc (a : Word) : (setPc s a).pc = a := rfl
@[simp] theorem setPc_stack (a : Word) : (setPc s a).stack = s.stack := rfl
@[simp] theorem setPc_memory (a : Word) : (setPc s a).memory = s.memory := rfl
@[simp] theorem setPc_dt (a : Word) : (setPc s a).dt = s.dt := rfl
@[simp] theorem setPc_st (a : Word) : (setPc s a).st = s.st := rfl
@[simp] theorem setPc_screen (a : Word) : (setPc s a).screen = s.screen := rfl
@[simp] theorem setPc_keys (a : Word) : (setPc s a).keys = s.keys := rfl
@[simp] theorem setPc_blocked (a : Word) : (setPc s a).blocked = s.blocked := rfl
@[simp] theorem setPc_blockedReg (a : Word) : (setPc s a).blockedReg = s.blockedReg := rfl
@[simp] theorem setPc_dwLatch (a : Word) : (setPc s a).dwLatch = s.dwLatch := rfl
@[simp] theorem setPc_tickCount (a : Word) : (setPc s a).tickCount = s.tickCount := rfl
@[simp] theorem setPc_fault (a : Word) : (setPc s a).fault = s.fault := rfl
@[simp] theorem setPc_cfg (a : Word) : (setPc s a).cfg = s.cfg := rfl
@[simp] theorem setPc_draws (a : Word) : (setPc s a).draws = s.draws := rfl
@[simp] theorem getV_setPc (a : Word) (y : RegIdx) : getV (setPc s a) y = getV s y := rfl
@[simp] theorem memRead_setPc (a : Word) (c : Word) : memRead (setPc s a) c = memRead s c := rfl
@[simp] theorem keyDown_setPc (a : Word) (j : Key) : keyDown (setPc s a) j = keyDown s j := rfl

/-! ### setI -/

@[simp] theorem setI_regs (a : Word) : (setI s a).regs = s.regs := rfl
@[simp] theorem setI_i (a : Word) : (setI s a).i = a := rfl
@[simp] theorem setI_pc (a : Word) : (setI s a).pc = s.pc := rfl
@[simp] theorem setI_stack (a : Word) : (setI s a).stack = s.stack := rfl
@[simp] theorem setI_memory (a : Word) : (setI s a).memory = s.memory := rfl
@[simp] theorem setI_dt (a : Word) : (setI s a).dt = s.dt := rfl
@[simp] theorem setI_st (a : Word) : (setI s a).st = s.st := rfl
@[simp] theorem setI_screen (a : Word) : (setI s a).screen = s.screen := rfl
@[simp] theorem setI_keys (a : Word) : (setI s a).keys = s.keys := rfl
@[simp] theorem setI_blocked (a : Word) : (setI s a).blocked = s.blocked := rfl
@[simp] theorem setI_blockedReg (a : Word) : (setI s a).blockedReg = s.blockedReg := rfl
@[simp] theorem setI_dwLatch (a : Word) : (setI s a).dwLatch = s.dwLatch := rfl
@[simp] theorem setI_tickCount (a : Word) : (setI s a).tickCount = s.tickCount := rfl
@[simp] theorem setI_fault (a : Word) : (setI s a).fault = s.fault := rfl
@[simp] theorem setI_cfg (a : Word) : (setI s a).cfg = s.cfg := rfl
@[simp] theorem setI_draws (a : Word) : (setI s a).draws = s.draws := rfl
@[simp] theorem getV_setI (a : Word) (y : RegIdx) : getV (setI s a) y = getV s y := rfl
@[simp] theorem memRead_setI (a : Word) (c : Word) : memRead (setI s a) c = memRead s c := rfl
@[simp] theorem keyDown_setI (a : Word) (j : Key) : keyDown (setI s a) j = keyDown s j := rfl

/-! ### setDt -/

@[simp] theorem setDt_regs (b : Byte) : (setDt s b).regs = s.regs := rfl
@[simp] theorem setDt_i (b : Byte) : (setDt s b).i = s.i := rfl
@[simp] theorem setDt_pc (b : Byte) : (setDt s b).pc = s.pc := rfl
@[simp] theorem setDt_stack (b : Byte) : (setDt s b).stack = s.stack := rfl
@[simp] theorem setDt_memory (b : Byte) : (setDt s b).memory = s.memory := rfl
@[simp] theorem setDt_dt (b : Byte) : (setDt s b).dt = b := rfl
@[simp] theorem setDt_st (b : Byte) : (setDt s b).st = s.st := rfl
@[simp] theorem setDt_screen (b : Byte) : (setDt s b).screen = s.screen := rfl
@[simp] theorem setDt_keys (b : Byte) : (setDt s b).keys = s.keys := rfl
@[simp] theorem setDt_blocked (b : Byte) : (setDt s b).blocked = s.blocked := rfl
@[simp] theorem setDt_blockedReg (b : Byte) : (setDt s b).blockedReg = s.blockedReg := rfl
@[simp] theorem setDt_dwLatch (b : Byte) : (setDt s b).dwLatch = s.dwLatch := rfl
@[simp] theorem setDt_tickCount (b : Byte) : (setDt s b).tickCount = s.tickCount := rfl
@[simp] theorem setDt_fault (b : Byte) : (setDt s b).fault = s.fault := rfl
@[simp] theorem setDt_cfg (b : Byte) : (setDt s b).cfg = s.cfg := rfl
@[simp] theorem setDt_draws (b : Byte) : (setDt s b).draws = s.draws := rfl
@[simp] theorem getV_setDt (b : Byte) (y : RegIdx) : getV (setDt s b) y = getV s y := rfl
@[simp] theorem memRead_setDt (b : Byte) (c : Word) : memRead (setDt s b) c = memRead s c := rfl
@[simp] theorem keyDown_setDt (b : Byte) (j : Key) : keyDown (setDt s b) j = keyDown s j := rfl

/-! ### setSt -/

@[simp] theorem setSt_regs (b : Byte) : (setSt s b).regs = s.regs := rfl
@[simp] theorem setSt_i (b : Byte) : (setSt s b).i = s.i := rfl
@[simp] theorem setSt_pc (b : Byte) : (setSt s b).pc = s.pc := rfl
@[simp] theorem setSt_stack (b : Byte) : (setSt s b).stack = s.stack := rfl
@[simp] theorem setSt_memory (b : Byte) : (setSt s b).memory = s.memory := rfl
@[simp] theorem setSt_dt (b : Byte) : (setSt s b).dt = s.dt := rfl
@[simp] theorem setSt_st (b : Byte) : (setSt s b).st = b := rfl
@[simp] theorem setSt_screen (b : Byte) : (setSt s b).screen = s.screen := rfl
@[simp] theorem setSt_keys (b : Byte) : (setSt s b).keys = s.keys := rfl
@[simp] theorem setSt_blocked (b : Byte) : (setSt s b).blocked = s.blocked := rfl
@[simp] theorem setSt_blockedReg (b : Byte) : (setSt s b).blockedReg = s.blockedReg := rfl
@[simp] theorem setSt_dwLatch (b : Byte) : (setSt s b).dwLatch = s.dwLatch := rfl
@[simp] theorem setSt_tickCount (b : Byte) : (setSt s b).tickCount = s.tickCount := rfl
@[simp] theorem setSt_fault (b : Byte) : (setSt s b).fault = s.fault := rfl
@[simp] theorem setSt_cfg (b : Byte) : (setSt s b).cfg = s.cfg := rfl
@[simp] theorem setSt_draws (b : Byte) : (setSt s b).draws = s.draws := rfl
@[simp] theorem getV_setSt (b : Byte) (y : RegIdx) : getV (setSt s b) y = getV s y := rfl
@[simp] theorem memRead_setSt (b : Byte) (c : Word) : memRead (setSt s b) c = memRead s c := rfl
@[simp] theorem keyDown_setSt (b : Byte) (j : Key) : keyDown (setSt s b) j = keyDown s j := rfl

/-! ### memWrite -/

@[simp] theorem memWrite_regs (a : Word) (v : Byte) : (memWrite s a v).regs = s.regs := rfl
@[simp] theorem memWrite_i (a : Word) (v : Byte) : (memWrite s a v).i = s.i := rfl
@[simp] theorem memWrite_pc (a : Word) (v : Byte) : (memWrite s a v).pc = s.pc := rfl
@[simp] theorem memWrite_stack (a : Word) (v : Byte) : (memWrite s a v).stack = s.stack := rfl
@[simp] theorem memWrite_memory (a : Word) (v : Byte) : (memWrite s a v).memory = Memory.write s.memory (memAddr a) v := rfl
@[simp] theorem memWrite_dt (a : Word) (v : Byte) : (memWrite s a v).dt = s.dt := rfl
@[simp] theorem memWrite_st (a : Word) (v : Byte) : (memWrite s a v).st = s.st := rfl
@[simp] theorem memWrite_screen (a : Word) (v : Byte) : (memWrite s a v).screen = s.screen := rfl
@[simp] theorem memWrite_keys (a : Word) (v : Byte) : (memWrite s a v).keys = s.keys := rfl
@[simp] theorem memWrite_blocked (a : Word) (v : Byte) : (memWrite s a v).blocked = s.blocked := rfl
@[simp] theorem memWrite_blockedReg (a : Word) (v : Byte) : (memWrite s a v).blockedReg = s.blockedReg := rfl
@[simp] theorem memWrite_dwLatch (a : Word) (v : Byte) : (memWrite s a v).dwLatch = s.dwLatch := rfl
@[simp] theorem memWrite_tickCount (a : Word) (v : Byte) : (memWrite s a v).tickCount = s.tickCount := rfl
@[simp] theorem memWrite_fault (a : Word) (v : Byte) : (memWrite s a v).fault = s.fault := rfl
@[simp] theorem memWrite_cfg (a : Word) (v : Byte) : (memWrite s a v).cfg = s.cfg := rfl
@[simp] theorem memWrite_draws (a : Word) (v : Byte) : (memWrite s a v).draws = s.draws := rfl
@[simp] theorem getV_memWrite (a : Word) (v : Byte) (y : RegIdx) : getV (memWrite s a v) y = getV s y := rfl
@[simp] theorem keyDown_memWrite (a : Word) (v : Byte) (j : Key) : keyDown (memWrite s a v) j = keyDown s j := rfl

/-! ### push -/

@[simp] theorem push_regs (a : Word) : (push s a).regs = s.regs := rfl
@[simp] theorem push_i (a : Word) : (push s a).i = s.i := rfl
@[simp] theorem push_pc (a : Word) : (push s a).pc = s.pc := rfl
@[simp] theorem push_stack (a : Word) : (push s a).stack = s.stack ++ [a] := rfl
@[simp] theorem push_memory (a : Word) : (push s a).memory = s.memory := rfl
@[simp] theorem push_dt (a : Word) : (push s a).dt = s.dt := rfl
@[simp] theorem push_st (a : Word) : (push s a).st = s.st := rfl
@[simp] theorem push_screen (a : Word) : (push s a).screen = s.screen := rfl
@[simp] theorem push_keys (a : Word) : (push s a).keys = s.keys := rfl
@[simp] theorem push_blocked (a : Word) : (push s a).blocked = s.blocked := rfl
@[simp] theorem push_blockedReg (a : Word) : (push s a).blockedReg = s.blockedReg := rfl
@[simp] theorem push_dwLatch (a : Word) : (push s a).dwLatch = s.dwLatch := rfl
@[simp] theorem push_tickCount (a : Word) : (push s a).tickCount = s.tickCount := rfl
@[simp] theorem push_fault (a : Word) : (push s a).fault = s.fault := rfl
@[simp] theorem push_cfg (a : Word) : (push s a).cfg = s.cfg := rfl
@[simp] theorem push_draws (a : Word) : (push s a).draws = s.draws := rfl
@[simp] theorem getV_push (a : Word) (y : RegIdx) : getV (push s a) y = getV s y := rfl
@[simp] theorem memRead_push (a : Word) (c : Word) : memRead (push s a) c = memRead s c := rfl
@[simp] theorem keyDown_push (a : Word) (j : Key) : keyDown (push s a) j = keyDown s j := rfl

/-! ### dropTop -/

@[simp] theorem dropTop_regs : (dropTop s).regs = s.regs := rfl
@[simp] theorem dropTop_i : (dropTop s).i = s.i := rfl
@[simp] theorem dropTop_pc : (dropTop s).pc = s.pc := rfl
@[simp] theorem dropTop_stack : (dropTop s).stack = s.stack.dropLast := rfl
@[simp] theorem dropTop_memory : (dropTop s).memory = s.memory := rfl
@[simp] theorem dropTop_dt : (dropTop s).dt = s.dt := rfl
@[simp] theorem dropTop_st : (dropTop s).st = s.st := rfl
@[simp] theorem dropTop_screen : (dropTop s).screen = s.screen := rfl
@[simp] theorem dropTop_keys : (dropTop s).keys = s.keys := rfl
@[simp] theorem dropTop_blocked : (dropTop s).blocked = s.blocked := rfl
@[simp] theorem dropTop_blockedReg : (dropTop s).blockedReg = s.blockedReg := rfl
@[simp] theorem dropTop_dwLatch : (dropTop s).dwLatch = s.dwLatch := rfl
@[simp] theorem dropTop_tickCount : (dropTop s).tickCount = s.tickCount := rfl
@[simp] theorem dropTop_fault : (dropTop s).fault = s.fault := rfl
@[simp] theorem dropTop_cfg : (dropTop s).cfg = s.cfg := rfl
@[simp] theorem dropTop_draws : (dropTop s).draws = s.draws := rfl
@[simp] theorem getV_dropTop (y : RegIdx) : getV (dropTop s) y = getV s y := rfl
@[simp] theorem memRead_dropTop (c : Word) : memRead (dropTop s) c = memRead s c := rfl
@[simp] theorem keyDown_dropTop (j : Key) : keyDown (dropTop s) j = keyDown s j := rfl

/-! ### raiseFatal -/

@[simp] theorem raiseFatal_regs (k : FatalKind) (w : Word) : (raiseFatal k w s).regs = s.regs := rfl
@[simp] theorem raiseFatal_i (k : FatalKind) (w : Word) : (raiseFatal k w s).i = s.i := rfl
@[simp] theorem raiseFatal_pc (k : FatalKind) (w : Word) : (raiseFatal k w s).pc = s.pc := rfl
@[simp] theorem raiseFatal_stack (k : FatalKind) (w : Word) : (raiseFatal k w s).stack = s.stack := rfl
@[simp] theorem raiseFatal_memory (k : FatalKind) (w : Word) : (raiseFatal k w s).memory = s.memory := rfl
@[simp] theorem raiseFatal_dt (k : FatalKind) (w : Word) : (raiseFatal k w s).dt = s.dt := rfl
@[simp] theorem raiseFatal_st (k : FatalKind) (w : Word) : (raiseFatal k w s).st = s.st := rfl
@[simp] theorem raiseFatal_screen (k : FatalKind) (w : Word) : (raiseFatal k w s).screen = s.screen := rfl
@[simp] theorem raiseFatal_keys (k : FatalKind) (w : Word) : (raiseFatal k w s).keys = s.keys := rfl
@[simp] theorem raiseFatal_blocked (k : FatalKind) (w : Word) : (raiseFatal k w s).blocked = s.blocked := rfl
@[simp] theorem raiseFatal_blockedReg (k : FatalKind) (w : Word) : (raiseFatal k w s).blockedReg = s.blockedReg := rfl
@[simp] theorem raiseFatal_dwLatch (k : FatalKind) (w : Word) : (raiseFatal k w s).dwLatch = s.dwLatch := rfl
@[simp] theorem raiseFatal_tickCount (k : FatalKind) (w : Word) : (raiseFatal k w s).tickCount = s.tickCount := rfl
@[simp] theorem raiseFatal_fault (k : FatalKind) (w : Word) : (raiseFatal k w s).fault = some { kind := k, opcode := w, pc := s.pc } := rfl
@[simp] theorem raiseFatal_cfg (k : FatalKind) (w : Word) : (raiseFatal k w s).cfg = s.cfg := rfl
@[simp] theorem raiseFatal_draws (k : FatalKind) (w : Word) : (raiseFatal k w s).draws = s.draws := rfl
@[simp] theorem getV_raiseFatal (k : FatalKind) (w : Word) (y : RegIdx) : getV (raiseFatal k w s) y = getV s y := rfl
@[simp] theorem memRead_raiseFatal (k : FatalKind) (w : Word) (c : Word) : memRead (raiseFatal k w s) c = memRead s c := rfl
@[simp] theorem keyDown_raiseFatal (k : FatalKind) (w : Word) (j : Key) : keyDown (raiseFatal k w s) j = keyDown s j := rfl

/-! ### setScreen -/

@[simp] theorem setScreen_regs (g : Vector Bool 2048) : (setScreen s g).regs = s.regs := rfl
@[simp] theorem setScreen_i (g : Vector Bool 2048) : (setScreen s g).i = s.i := rfl
@[simp] theorem setScreen_pc (g : Vector Bool 2048) : (setScreen s g).pc = s.pc := rfl
@[simp] theorem setScreen_stack (g : Vector Bool 2048) : (setScreen s g).stack = s.stack := rfl
@[simp] theorem setScreen_memory (g : Vector Bool 2048) : (setScreen s g).memory = s.memory := rfl
@[simp] theorem setScreen_dt (g : Vector Bool 2048) : (setScreen s g).dt = s.dt := rfl
@[simp] theorem setScreen_st (g : Vector Bool 2048) : (setScreen s g).st = s.st := rfl
@[simp] theorem setScreen_screen (g : Vector Bool 2048) : (setScreen s g).screen = g := rfl
@[simp] theorem setScreen_keys (g : Vector Bool 2048) : (setScreen s g).keys = s.keys := rfl
@[simp] theorem setScreen_blocked (g : Vector Bool 2048) : (setScreen s g).blocked = s.blocked := rfl
@[simp] theorem setScreen_blockedReg (g : Vector Bool 2048) : (setScreen s g).blockedReg = s.blockedReg := rfl
@[simp] theorem setScreen_dwLatch (g : Vector Bool 2048) : (setScreen s g).dwLatch = s.dwLatch := rfl
@[simp] theorem setScreen_tickCount (g : Vector Bool 2048) : (setScreen s g).tickCount = s.tickCount := rfl
@[simp] theorem setScreen_fault (g : Vector Bool 2048) : (setScreen s g).fault = s.fault := rfl
@[simp] theorem setScreen_cfg (g : Vector Bool 2048) : (setScreen s g).cfg = s.cfg := rfl
@[simp] theorem setScreen_draws (g : Vector Bool 2048) : (setScreen s g).draws = s.draws := rfl
@[simp] theorem getV_setScreen (g : Vector Bool 2048) (y : RegIdx) : getV (setScreen s g) y = getV s y := rfl
@[simp] theorem memRead_setScreen (g : Vector Bool 2048) (c : Word) : memRead (setScreen s g) c = memRead s c := rfl
@[simp] theorem keyDown_setScreen (g : Vector Bool 2048) (j : Key) : keyDown (setScreen s g) j = keyDown s j := rfl

/-! ### setKey -/

@[simp] theorem setKey_regs (k : Key) (d : Bool) : (setKey s k d).regs = s.regs := rfl
@[simp] theorem setKey_i (k : Key) (d : Bool) : (setKey s k d).i = s.i := rfl
@[simp] theorem setKey_pc (k : Key) (d : Bool) : (setKey s k d).pc = s.pc := rfl
@[simp] theorem setKey_stack (k : Key) (d : Bool) : (setKey s k d).stack = s.stack := rfl
@[simp] theorem setKey_memory (k : Key) (d : Bool) : (setKey s k d).memory = s.memory := rfl
@[simp] theorem setKey_dt (k : Key) (d : Bool) : (setKey s k d).dt = s.dt := rfl
@[simp] theorem setKey_st (k : Key) (d : Bool) : (setKey s k d).st = s.st := rfl
@[simp] theorem setKey_screen (k : Key) (d : Bool) : (setKey s k d).screen = s.screen := rfl
@[simp] theorem setKey_keys (k : Key) (d : Bool) : (setKey s k d).keys = s.keys.set k.toNat d k.isLt := rfl
@[simp] theorem setKey_blocked (k : Key) (d : Bool) : (setKey s k d).blocked = s.blocked := rfl
@[simp] theorem setKey_blockedReg (k : Key) (d : Bool) : (setKey s k d).blockedReg = s.blockedReg := rfl
@[simp] theorem setKey_dwLatch (k : Key) (d : Bool) : (setKey s k d).dwLatch = s.dwLatch := rfl
@[simp] theorem setKey_tickCount (k : Key) (d : Bool) : (setKey s k d).tickCount = s.tickCount := rfl
@[simp] theorem setKey_fault (k : Key) (d : Bool) : (setKey s k d).fault = s.fault := rfl
@[simp] theorem setKey_cfg (k : Key) (d : Bool) : (setKey s k d).cfg = s.cfg := rfl
@[simp] theorem setKey_draws (k : Key) (d : Bool) : (setKey s k d).draws = s.draws := rfl
@[simp] theorem getV_setKey (k : Key) (d : Bool) (y : RegIdx) : getV (setKey s k d) y = getV s y := rfl
@[simp] theorem memRead_setKey (k : Key) (d : Bool) (c : Word) : memRead (setKey s k d) c = memRead s c := rfl

/-! ### block -/

@[simp] theorem block_regs (x : RegIdx) : (block s x).regs = s.regs := rfl
@[simp] theorem block_i (x : RegIdx) : (block s x).i = s.i := rfl
@[simp] theorem block_pc (x : RegIdx) : (block s x).pc = s.pc := rfl
@[simp] theorem block_stack (x : RegIdx) : (block s x).stack = s.stack := rfl
@[simp] theorem block_memory (x : RegIdx) : (block s x).memory = s.memory := rfl
@[simp] theorem block_dt (x : RegIdx) : (block s x).dt = s.dt := rfl
@[simp] theorem block_st (x : RegIdx) : (block s x).st = s.st := rfl
@[simp] theorem block_screen (x : RegIdx) : (block s x).screen = s.screen := rfl
@[simp] theorem block_keys (x : RegIdx) : (block s x).keys = s.keys := rfl
@[simp] theorem block_blocked (x : RegIdx) : (block s x).blocked = true := rfl
@[simp] theorem block_blockedReg (x : RegIdx) : (block s x).blockedReg = x := rfl
@[simp] theorem block_dwLatch (x : RegIdx) : (block s x).dwLatch = s.dwLatch := rfl
@[simp] theorem block_tickCount (x : RegIdx) : (block s x).tickCount = s.tickCount := rfl
@[simp] theorem block_fault (x : RegIdx) : (block s x).fault = s.fault := rfl
@[simp] theorem block_cfg (x : RegIdx) : (block s x).cfg = s.cfg := rfl
@[simp] theorem block_draws (x : RegIdx) : (block s x).draws = s.draws := rfl
@[simp] theorem getV_block (x : RegIdx) (y : RegIdx) : getV (block s x) y = getV s y := rfl
@[simp] theorem memRead_block (x : RegIdx) (c : Word) : memRead (block s x) c = memRead s c := rfl
@[simp] theorem keyDown_block (x : RegIdx) (j : Key) : keyDown (block s x) j = keyDown s j := rfl

/-! ### tick -/

@[simp] theorem tick_regs : (tick s).regs = s.regs := rfl
@[simp] theorem tick_i : (tick s).i = s.i := rfl
@[simp] theorem tick_pc : (tick s).pc = s.pc := rfl
@[simp] theorem tick_stack : (tick s).stack = s.stack := rfl
@[simp] theorem tick_memory : (tick s).memory = s.memory := rfl
@[simp] theorem tick_dt : (tick s).dt = countDown s.dt := rfl
@[simp] theorem tick_st : (tick s).st = countDown s.st := rfl
@[simp] theorem tick_screen : (tick s).screen = s.screen := rfl
@[simp] theorem tick_keys : (tick s).keys = s.keys := rfl
@[simp] theorem tick_blocked : (tick s).blocked = s.blocked := rfl
@[simp] theorem tick_blockedReg : (tick s).blockedReg = s.blockedReg := rfl
@[simp] theorem tick_dwLatch : (tick s).dwLatch = false := rfl
@[simp] theorem tick_tickCount : (tick s).tickCount = 0 := rfl
@[simp] theorem tick_fault : (tick s).fault = s.fault := rfl
@[simp] theorem tick_cfg : (tick s).cfg = s.cfg := rfl
@[simp] theorem tick_draws : (tick s).draws = s.draws := rfl
@[simp] theorem getV_tick (y : RegIdx) : getV (tick s) y = getV s y := rfl
@[simp] theorem memRead_tick (c : Word) : memRead (tick s) c = memRead s c := rfl
@[simp] theorem keyDown_tick (j : Key) : keyDown (tick s) j = keyDown s j := rfl

/-! ### countDraw -/

@[simp] theorem countDraw_regs : (countDraw s).regs = s.regs := rfl
@[simp] theorem countDraw_i : (countDraw s).i = s.i := rfl
@[simp] theorem countDraw_pc : (countDraw s).pc = s.pc := rfl
@[simp] theorem countDraw_stack : (countDraw s).stack = s.stack := rfl
@[simp] theorem countDraw_memory : (countDraw s).memory = s.memory := rfl
@[simp] theorem countDraw_dt : (countDraw s).dt = s.dt := rfl
@[simp] theorem countDraw_st : (countDraw s).st = s.st := rfl
@[simp] theorem countDraw_screen : (countDraw s).screen = s.screen := rfl
@[simp] theorem countDraw_keys : (countDraw s).keys = s.keys := rfl
@[simp] theorem countDraw_blocked : (countDraw s).blocked = s.blocked := rfl
@[simp] theorem countDraw_blockedReg : (countDraw s).blockedReg = s.blockedReg := rfl
@[simp] theorem countDraw_dwLatch : (countDraw s).dwLatch = s.dwLatch := rfl
@[simp] theorem countDraw_tickCount : (countDraw s).tickCount = s.tickCount := rfl
@[simp] theorem countDraw_fault : (countDraw s).fault = s.fault := rfl
@[simp] theorem countDraw_cfg : (countDraw s).cfg = s.cfg := rfl
@[simp] theorem countDraw_draws : (countDraw s).draws = s.draws + 1 := rfl
@[simp] theorem getV_countDraw (y : RegIdx) : getV (countDraw s) y = getV s y := rfl
@[simp] theorem memRead_countDraw (c : Word) : memRead (countDraw s) c = memRead s c := rfl
@[simp] theorem keyDown_countDraw (j : Key) : keyDown (countDraw s) j = keyDown s j := rfl

end Sys2Proof.Machine
end

