-- ==== Sys2Proof/Laws/Memory.lean ====
section
/-! SUPPORT. Memory: a read after a write, and every write keeps the canonical form. -/

namespace Sys2Proof.Machine

/-! ### The list of cells -/

theorem Memory.read_insert_same (a : Nat) (v : Byte) (m : Memory) (h : ∀ c ∈ m, c.1 ≠ a) :
    Memory.read (Memory.insert (a, v) m) a = v := by
  induction m with
  | nil => simp [Memory.insert, Memory.read]
  | cons d m ih =>
    have hd : d.1 ≠ a := h d (by simp)
    have hm : ∀ c ∈ m, c.1 ≠ a := fun c hc => h c (by simp [hc])
    unfold Memory.insert
    split
    · simp [Memory.read]
    · simpa [Memory.read, hd] using ih hm

theorem Memory.read_insert_other (a b : Nat) (v : Byte) (m : Memory) (h : b ≠ a) :
    Memory.read (Memory.insert (a, v) m) b = Memory.read m b := by
  induction m with
  | nil => simp [Memory.insert, Memory.read, Ne.symm h]
  | cons d m ih =>
    unfold Memory.insert
    split
    · simp [Memory.read, Ne.symm h]
    · simp only [Memory.read, ih]

theorem Memory.read_filter_same (a : Nat) (m : Memory) :
    Memory.read (m.filter (fun c => c.1 != a)) a = unlistedByte a := by
  induction m with
  | nil => rfl
  | cons d m ih =>
    by_cases hd : d.1 = a
    · simpa [hd] using ih
    · simpa [hd, Memory.read] using ih

theorem Memory.read_filter_other (a b : Nat) (m : Memory) (h : b ≠ a) :
    Memory.read (m.filter (fun c => c.1 != a)) b = Memory.read m b := by
  induction m with
  | nil => rfl
  | cons d m ih =>
    by_cases hd : d.1 = a
    · have hb : d.1 ≠ b := fun e => h (e ▸ hd)
      simpa [hd, Memory.read, Ne.symm h, hb] using ih
    · by_cases hb : d.1 = b
      · simp [Memory.read, hb, h]
      · simpa [hd, Memory.read, hb] using ih

/-- A read after a write: the byte written at its address, and every other byte as before. -/
theorem Memory.read_write (m : Memory) (a b : Nat) (v : Byte) :
    Memory.read (Memory.write m a v) b = if b = a then v else Memory.read m b := by
  by_cases hb : b = a
  · subst hb
    simp only [Memory.write, if_true]
    split
    · next hv => rw [Memory.read_filter_same, hv]
    · exact Memory.read_insert_same b v _ (by simp)
  · simp only [Memory.write, if_neg hb]
    split
    · exact Memory.read_filter_other a b m hb
    · rw [Memory.read_insert_other a b v _ hb, Memory.read_filter_other a b m hb]

/-! ### The canonical form -/

theorem Memory.wf_iff (m : Memory) :
    Memory.wf m = true ↔
      m.Pairwise (fun c d => c.1 < d.1) ∧ ∀ c ∈ m, c.1 < 4096 ∧ c.2 ≠ unlistedByte c.1 := by
  simp [Memory.wf]

theorem Memory.mem_insert (c d : Host.Cell) (m : Memory) :
    d ∈ Memory.insert c m ↔ d = c ∨ d ∈ m := by
  induction m with
  | nil => simp [Memory.insert]
  | cons e m ih =>
    unfold Memory.insert
    split
    · simp
    · simp only [List.mem_cons, ih]
      tauto

theorem Memory.pairwise_insert (c : Host.Cell) (m : Memory) (hm : m.Pairwise (fun c d => c.1 < d.1))
    (hc : ∀ d ∈ m, d.1 ≠ c.1) : (Memory.insert c m).Pairwise (fun c d => c.1 < d.1) := by
  induction m with
  | nil => simp [Memory.insert]
  | cons e m ih =>
    obtain ⟨he, hm⟩ := List.pairwise_cons.mp hm
    have hne : e.1 ≠ c.1 := hc e (by simp)
    unfold Memory.insert
    split
    · next hlt =>
      refine List.pairwise_cons.mpr ⟨?_, List.pairwise_cons.mpr ⟨he, hm⟩⟩
      intro d hd
      rcases List.mem_cons.mp hd with rfl | hd
      · exact hlt
      · exact lt_trans hlt (he d hd)
    · next hlt =>
      refine List.pairwise_cons.mpr ⟨?_, ih hm (fun d hd => hc d (by simp [hd]))⟩
      intro d hd
      rcases (Memory.mem_insert c d m).mp hd with rfl | hd
      · omega
      · exact he d hd

/-- A write keeps the canonical form. -/
theorem Memory.wf_write (m : Memory) (a : Nat) (v : Byte) (ha : a < 4096) (hm : Memory.wf m = true) :
    Memory.wf (Memory.write m a v) = true := by
  obtain ⟨hp, hc⟩ := (Memory.wf_iff m).mp hm
  have hp' : (m.filter (fun c => c.1 != a)).Pairwise (fun c d => c.1 < d.1) := hp.filter _
  refine (Memory.wf_iff _).mpr ?_
  simp only [Memory.write]
  split
  · exact ⟨hp', fun c h => hc c (List.mem_filter.mp h).1⟩
  · next hv =>
    refine ⟨Memory.pairwise_insert _ _ hp' (fun d hd => by simpa using (List.mem_filter.mp hd).2), ?_⟩
    intro c h
    rcases (Memory.mem_insert _ c _).mp h with rfl | h
    · exact ⟨ha, hv⟩
    · exact hc c (List.mem_filter.mp h).1

@[simp] theorem Memory.wf_nil : Memory.wf [] = true := rfl

/-! ### The state's memory -/

theorem memAddr_lt (a : Word) : memAddr a < 4096 := Nat.mod_lt _ (by decide)

/-- MemRead after MemWrite (spec/20_memory.md R51, R61). -/
theorem memRead_memWrite (s : State) (a c : Word) (v : Byte) :
    memRead (memWrite s a v) c = if memAddr c = memAddr a then v else memRead s c :=
  Memory.read_write s.memory (memAddr a) (memAddr c) v

theorem wf_memWrite (s : State) (a : Word) (v : Byte) (h : Memory.wf s.memory = true) :
    Memory.wf (memWrite s a v).memory = true :=
  Memory.wf_write _ _ _ (memAddr_lt a) h

/-- A run of writes changes memory and nothing else. -/
theorem memWriteBytes_eq (vs : List Byte) (s : State) (a : Word) :
    memWriteBytes s a vs = { s with memory := (memWriteBytes s a vs).memory } := by
  induction vs generalizing s a with
  | nil => rfl
  | cons v vs ih =>
    have h := ih (memWrite s a v) (a + 1)
    simp only [memWriteBytes]
    rw [h]
    rfl

theorem wf_memWriteBytes (vs : List Byte) (s : State) (a : Word) (h : Memory.wf s.memory = true) :
    Memory.wf (memWriteBytes s a vs).memory = true := by
  induction vs generalizing s a with
  | nil => exact h
  | cons v vs ih => exact ih _ _ (wf_memWrite s a v h)

theorem add_ofNat_succ (a : Word) (k : Nat) : a + BitVec.ofNat 16 (k + 1) = a + 1 + BitVec.ofNat 16 k := by
  rw [BitVec.ofNat_add, BitVec.add_comm (BitVec.ofNat 16 k), ← BitVec.add_assoc]
  rfl

/-- A byte outside the run is as before. -/
theorem memRead_memWriteBytes_outside (vs : List Byte) (s : State) (a c : Word)
    (h : ∀ k < vs.length, memAddr c ≠ memAddr (a + BitVec.ofNat 16 k)) :
    memRead (memWriteBytes s a vs) c = memRead s c := by
  induction vs generalizing s a with
  | nil => rfl
  | cons v vs ih =>
    have h0 : memAddr c ≠ memAddr a := by simpa using h 0 (by simp)
    have hs : ∀ k < vs.length, memAddr c ≠ memAddr (a + 1 + BitVec.ofNat 16 k) := by
      intro k hk
      have := h (k + 1) (by simpa using hk)
      rwa [add_ofNat_succ] at this
    rw [memWriteBytes, ih _ _ hs, memRead_memWrite, if_neg h0]

/-- Two offsets below 4096 name the same byte only when they are equal. -/
theorem memAddr_add_ne (a : Word) (j k : Nat) (hj : j < 4096) (hk : k < 4096) (h : j ≠ k) :
    memAddr (a + BitVec.ofNat 16 j) ≠ memAddr (a + BitVec.ofNat 16 k) := by
  simp only [memAddr, BitVec.toNat_add, BitVec.toNat_ofNat]
  omega

/-- Byte k of the run, for a run no longer than memory. -/
theorem memRead_memWriteBytes_inside (vs : List Byte) (s : State) (a : Word) (k : Nat) (hk : k < vs.length)
    (hlen : vs.length ≤ 4096) : memRead (memWriteBytes s a vs) (a + BitVec.ofNat 16 k) = vs[k] := by
  induction vs generalizing s a k with
  | nil => simp at hk
  | cons v vs ih =>
    have hlen' : vs.length ≤ 4096 := by simp at hlen; omega
    cases k with
    | zero =>
      rw [memWriteBytes, memRead_memWriteBytes_outside]
      · simp [memRead_memWrite]
      · intro j hj
        have := memAddr_add_ne a 0 (j + 1) (by decide) (by simp at hlen; omega) (by simp)
        rw [add_ofNat_succ] at this
        simpa using this
    | succ k =>
      have := ih (memWrite s a v) (a + 1) k (by simpa using hk) hlen'
      rw [add_ofNat_succ]
      simpa [memWriteBytes] using this

end Sys2Proof.Machine
end

