-- ==== Sys2Proof/Laws/Ops.lean ====
section
/-! SUPPORT. One lemma per shared operation that says everything it does, for proofs to cite. -/

namespace Sys2Proof.Machine

/-! ### Registers -/

theorem getV_setV (s : State) (x y : RegIdx) (b : Byte) :
    getV (setV s x b) y = if y = x then b else getV s y := by
  by_cases h : y = x
  · subst h; simp [getV, setV]
  · have : x.toNat ≠ y.toNat := fun e => h (BitVec.eq_of_toNat_eq e).symm
    simp [getV, setV, h, this]

@[simp] theorem getV_setV_same (s : State) (x : RegIdx) (b : Byte) : getV (setV s x b) x = b := by
  simp [getV_setV]

theorem getV_setV_other (s : State) (x y : RegIdx) (b : Byte) (h : y ≠ x) :
    getV (setV s x b) y = getV s y := by
  simp [getV_setV, h]

/-- Two states have the same registers when every register reads the same. -/
theorem regs_ext (s t : State) (h : ∀ y, getV t y = getV s y) : t.regs = s.regs := by
  apply Vector.ext
  intro k hk
  have := h (BitVec.ofNat 4 k)
  have e : k % 16 = k := Nat.mod_eq_of_lt hk
  simpa [getV, e] using this

@[simp] theorem setFlag_eq (s : State) (f : Bool) : setFlag s f = setV s vf (flagByte f) := rfl

@[simp] theorem setResultThenFlag_eq (s : State) (x : RegIdx) (r : Byte) (f : Bool) :
    setResultThenFlag s x r f = setV (setV s x r) vf (flagByte f) := rfl

/-- The VF-last order: the flag stays in VF, whatever x is (spec/10_state.md R22). -/
theorem getV_setResultThenFlag (s : State) (x y : RegIdx) (r : Byte) (f : Bool) :
    getV (setResultThenFlag s x r f) y = if y = vf then flagByte f else if y = x then r else getV s y := by
  simp only [setResultThenFlag_eq, getV_setV]

theorem getV_setBitwiseResult (s : State) (x y : RegIdx) (r : Byte) :
    getV (setBitwiseResult s x r) y =
      if s.cfg.quirks.vfReset = true ∧ y = vf then 0x00#8 else if y = x then r else getV s y := by
  unfold setBitwiseResult
  split <;> simp_all [getV_setV, flagByte]

/-- The bitwise operations' end changes registers and nothing else. -/
theorem setBitwiseResult_eq (s : State) (x : RegIdx) (r : Byte) :
    setBitwiseResult s x r = { s with regs := (setBitwiseResult s x r).regs } := by
  unfold setBitwiseResult
  split <;> rfl

@[simp] theorem storeKey_eq (s : State) (x : RegIdx) (k : Key) : storeKey s x k = setV s x (k.setWidth 8) := rfl

/-! ### PC and I -/

@[simp] theorem advancePc_eq (s : State) : advancePc s = setPc s (s.pc + 2) := rfl

@[simp] theorem retryDraw_eq (s : State) : retryDraw s = setPc s (s.pc - 2) := rfl

@[simp] theorem skipIf_eq (c : Bool) (s : State) : skipIf c s = setPc s (if c then s.pc + 2 else s.pc) := by
  cases c <;> rfl

@[simp] theorem advanceIndex_eq (s : State) (x : RegIdx) :
    advanceIndex s x =
      setI s (if s.cfg.quirks.memory then s.i + BitVec.ofNat 16 (x.toNat + 1) else s.i) := by
  unfold advanceIndex
  split <;> rfl

/-! ### The register ranges of FX55 and FX65 -/

theorem mem_regsThrough (x k : RegIdx) : k ∈ regsThrough x ↔ k.toNat ≤ x.toNat := by
  simp only [regsThrough, List.mem_map, List.mem_range]
  constructor
  · rintro ⟨j, hj, rfl⟩
    have := x.isLt
    simp only [BitVec.toNat_ofNat]
    omega
  · intro h
    exact ⟨k.toNat, by omega, by simp⟩

/-- A register of FX55 and what is stored of it, in terms of a run of bytes: the stores go to I, I+1, … in turn. -/
theorem foldl_storeReg (n : Nat) (hn : n ≤ 16) (s : State) :
    ((List.range n).map (BitVec.ofNat 4)).foldl storeReg s =
      memWriteBytes s s.i (((List.range n).map (BitVec.ofNat 4)).map (getV s)) := by
  have snoc : ∀ (vs : List Byte) (v : Byte) (t : State) (a : Word),
      memWriteBytes t a (vs ++ [v]) = memWrite (memWriteBytes t a vs) (a + BitVec.ofNat 16 vs.length) v := by
    intro vs
    induction vs with
    | nil => intro v t a; simp [memWriteBytes]
    | cons w vs ih =>
      intro v t a
      simp only [List.cons_append, memWriteBytes, ih, List.length_cons, add_ofNat_succ]
  induction n with
  | zero => rfl
  | succ n ih =>
    have hlt : n % 16 = n := Nat.mod_eq_of_lt (by omega)
    rw [List.range_succ, List.map_append, List.foldl_append, ih (by omega), List.map_append]
    simp only [List.map_cons, List.map_nil, List.foldl_cons, List.foldl_nil]
    rw [snoc, storeReg, memWriteBytes_eq]
    simp [indexAddr, hlt, getV]

/-- FX55 stores V0..Vx at I, I+1, … (spec/43_memory_ops.md R154). -/
theorem storeRange_eq (s : State) (x : RegIdx) :
    (regsThrough x).foldl storeReg s = memWriteBytes s s.i ((regsThrough x).map (getV s)) :=
  foldl_storeReg _ (by have := x.isLt; omega) s

theorem length_regsThrough (x : RegIdx) : (regsThrough x).length = x.toNat + 1 := by
  simp [regsThrough]

/-- FX65's loads change registers and nothing else, and each loaded register reads its own byte. -/
theorem loadRange_spec (l : List RegIdx) (s : State) :
    l.foldl loadReg s = { s with regs := (l.foldl loadReg s).regs } ∧
    ∀ y, getV (l.foldl loadReg s) y = if y ∈ l then memRead s (indexAddr s y.toNat) else getV s y := by
  induction l generalizing s with
  | nil => exact ⟨rfl, by simp⟩
  | cons k l ih =>
    obtain ⟨h1, h2⟩ := ih (loadReg s k)
    refine ⟨?_, fun y => ?_⟩
    · rw [List.foldl_cons, h1]; rfl
    · rw [List.foldl_cons, h2]
      have e : memRead (loadReg s k) (indexAddr (loadReg s k) y.toNat) = memRead s (indexAddr s y.toNat) := rfl
      rw [e]
      by_cases hk : y = k
      · subst hk
        simp [loadReg]
      · simp [hk, loadReg, getV_setV]

/-! ### Keys -/

theorem keyDown_setKey (s : State) (k j : Key) (d : Bool) :
    keyDown (setKey s k d) j = if j = k then d else keyDown s j := by
  by_cases h : j = k
  · subst h; simp [keyDown, setKey]
  · have : k.toNat ≠ j.toNat := fun e => h (BitVec.eq_of_toNat_eq e).symm
    simp [keyDown, setKey, h, this]

theorem mem_scanKeys (c : KeyScanLast) (k : Key) : k ∈ scanKeys c ↔ k.toNat ≤ lastScanKey c := by
  cases c <;> revert k <;> decide

/-- No scanned key is down exactly when the scan finds none (spec/45_input.md R182). -/
theorem firstKeyDown_none (s : State) :
    firstKeyDown s = none ↔ ∀ k : Key, k.toNat ≤ lastScanKey s.cfg.keyScanLast → keyDown s k = false := by
  simp [firstKeyDown, List.find?_eq_none, mem_scanKeys]

theorem scanKeys_pairwise (c : KeyScanLast) : (scanKeys c).Pairwise (fun j k => j.toNat < k.toNat) := by
  cases c <;> decide

/-- The scan finds the lowest key that is down (spec/45_input.md R183). -/
theorem firstKeyDown_some (s : State) (k : Key) :
    firstKeyDown s = some k ↔
      k.toNat ≤ lastScanKey s.cfg.keyScanLast ∧ keyDown s k = true ∧
        ∀ j : Key, j.toNat < k.toNat → keyDown s j = false := by
  have hp := scanKeys_pairwise s.cfg.keyScanLast
  rw [firstKeyDown, List.find?_eq_some_iff_append]
  constructor
  · rintro ⟨hk, pre, post, hl, hpre⟩
    have hmem : k ∈ scanKeys s.cfg.keyScanLast := by simp [hl]
    have hle := (mem_scanKeys _ _).mp hmem
    refine ⟨hle, hk, fun j hj => ?_⟩
    have hj' : j ∈ scanKeys s.cfg.keyScanLast := (mem_scanKeys _ _).mpr (by omega)
    rw [hl] at hj' hp
    rcases List.mem_append.mp hj' with h | h
    · simpa using hpre j h
    · rcases List.mem_cons.mp h with rfl | h
      · omega
      · have := (List.pairwise_cons.mp (List.pairwise_append.mp hp).2.1).1 j h
        omega
  · rintro ⟨hle, hk, hlow⟩
    refine ⟨hk, ?_⟩
    obtain ⟨pre, post, hl⟩ := List.append_of_mem ((mem_scanKeys _ _).mpr hle)
    refine ⟨pre, post, hl, fun j hj => ?_⟩
    rw [hl] at hp
    have := (List.pairwise_append.mp hp).2.2 j hj k (by simp)
    simp [hlow j this]

/-! ### The timer step and the key scan -/

/-- The timer step changes DT, ST, the latch and the counter, and nothing else. -/
theorem timerStep_eq (s : State) :
    timerStep s =
      { s with dt := (timerStep s).dt, st := (timerStep s).st, dwLatch := (timerStep s).dwLatch,
               tickCount := (timerStep s).tickCount } := by
  unfold timerStep
  split <;> rfl

/-- At the end of a tick's last cycle. -/
theorem timerStep_tick (s : State) (h : s.tickCount + 1 = tickN s.cfg) : timerStep s = tick s := if_pos h

/-- In any other cycle. -/
theorem timerStep_count (s : State) (h : s.tickCount + 1 ≠ tickN s.cfg) :
    timerStep s = { s with tickCount := s.tickCount + 1 } := if_neg h

/-- The blocked scan changes registers and `blocked`, and nothing else. -/
theorem blockedScan_eq (s : State) :
    blockedScan s = { s with regs := (blockedScan s).regs, blocked := (blockedScan s).blocked } := by
  unfold blockedScan
  split <;> rfl

/-! ### The end of a cycle -/

/-- No arm of exec faults or refuses: every instruction answers a next state. -/
theorem exec_isNext (i : Instr) (s : State) : ∃ t, exec i s = .next t := by
  cases i with
  | ret =>
    simp only [exec, execRet]
    cases s.stack.getLast? <;> exact ⟨_, rfl⟩
  | call nnn =>
    simp only [exec, execCall]
    split <;> exact ⟨_, rfl⟩
  | drw x y n =>
    simp only [exec, execDrw]
    split <;> exact ⟨_, rfl⟩
  | ldVxKey x =>
    simp only [exec, execLdVxKey]
    cases firstKeyDown s <;> exact ⟨_, rfl⟩
  | _ => exact ⟨_, rfl⟩

/-- Everything a cycle can do (spec/40_cycle.md R90 to R95): if it answers a next state, it was a Blocked cycle, or it
ran a decoded instruction, or it met an unrecognized word. -/
theorem step_cases (s u : State) (h : step s = .next u) :
    s.fault = none ∧
      ((s.blocked = true ∧ u = timerStep (blockedScan s)) ∨
        (s.blocked = false ∧ ∃ i t, decode (fetchWord s) = .ok i ∧ exec i (advancePc s) = .next t ∧
          u = if t.fault.isSome then t else timerStep t) ∨
        (s.blocked = false ∧ (∃ e, decode (fetchWord s) = .error e) ∧
          u = raiseFatal .unrecognizedOpcode (fetchWord s) (advancePc s))) := by
  unfold step at h
  split at h
  · cases h
  · next hf =>
    refine ⟨by simpa using hf, ?_⟩
    split at h
    · next hb =>
      injection h with h
      exact .inl ⟨hb, h.symm⟩
    · next hb =>
      have hb : s.blocked = false := by simpa using hb
      split at h
      · next i hi =>
        obtain ⟨t, ht⟩ := exec_isNext i (advancePc s)
        rw [ht] at h
        injection h with h
        exact .inr (.inl ⟨hb, i, t, hi, ht, h.symm⟩)
      · next e he =>
        injection h with h
        exact .inr (.inr ⟨hb, ⟨e, he⟩, h.symm⟩)

end Sys2Proof.Machine
end

