-- ==== Sys2Proof/Laws/Draw.lean ====
section
/-! SUPPORT. The framebuffer engine: which cells a sprite covers, and what drawing cells does to the screen. -/

namespace Sys2Proof.Machine

/-! ### Drawing a list of cells -/

theorem foldl_plotCell_screen (cells : List (Fin 2048)) (acc : Vector Bool 2048 × Bool) (k : Fin 2048)
    (h : cells.Nodup) :
    (cells.foldl plotCell acc).1[k] = if k ∈ cells then !acc.1[k] else acc.1[k] := by
  induction cells generalizing acc with
  | nil => simp
  | cons c cells ih =>
    obtain ⟨hc, hn⟩ := List.nodup_cons.mp h
    rw [List.foldl_cons, ih _ hn]
    by_cases hk : k = c
    · subst hk
      simp [hc, plotCell]
    · have hne : c.val ≠ k.val := fun e => hk (Fin.ext e.symm)
      simp [hk, plotCell, hne]

theorem foldl_plotCell_hit (cells : List (Fin 2048)) (acc : Vector Bool 2048 × Bool) (h : cells.Nodup) :
    (cells.foldl plotCell acc).2 = (acc.2 || cells.any (fun k => acc.1[k])) := by
  induction cells generalizing acc with
  | nil => simp
  | cons c cells ih =>
    obtain ⟨hc, hn⟩ := List.nodup_cons.mp h
    rw [List.foldl_cons, ih _ hn]
    have : cells.any (fun k => (plotCell acc c).1[k]) = cells.any (fun k => acc.1[k]) := by
      apply Bool.eq_iff_iff.mpr
      simp only [List.any_eq_true]
      refine exists_congr fun k => and_congr_right fun hk => ?_
      have hne : c.val ≠ k.val := fun e => hc (Fin.ext e ▸ hk)
      simp [plotCell, hne]
    rw [this]
    simp [plotCell, Bool.or_assoc]

/-- Drawing distinct cells flips exactly those (spec/44_display.md R161). -/
theorem drawCells_screen (g : Vector Bool 2048) (cells : List (Fin 2048)) (k : Fin 2048) (h : cells.Nodup) :
    (drawCells g cells).1[k] = if k ∈ cells then !g[k] else g[k] :=
  foldl_plotCell_screen cells (g, false) k h

/-- Drawing distinct cells hits exactly when one of them was on (spec/44_display.md R167). -/
theorem drawCells_hit (g : Vector Bool 2048) (cells : List (Fin 2048)) (h : cells.Nodup) :
    (drawCells g cells).2 = cells.any (fun k => g[k]) := by
  simpa [drawCells] using foldl_plotCell_hit cells (g, false) h

/-! ### The cells of a sprite -/

theorem cellIndex_inj {r r' : Fin 32} {c c' : Fin 64} (h : cellIndex r c = cellIndex r' c') : r = r' ∧ c = c' := by
  simp only [cellIndex, Fin.mk.injEq] at h
  have := c.isLt
  have := c'.isLt
  exact ⟨Fin.ext (by omega), Fin.ext (by omega)⟩

/-- Where a coordinate lands: itself inside the axis, and past the edge its remainder, unless clipped. -/
theorem wrapOrClip_eq_some (clip : Bool) (size p : Nat) (h : 0 < size) (q : Fin size) :
    wrapOrClip clip size p h = some q ↔ q.val = p % size ∧ (clip = true → p < size) := by
  unfold wrapOrClip
  split
  · next hp =>
    simp only [Option.some.injEq, Fin.ext_iff, Nat.mod_eq_of_lt hp]
    constructor
    · rintro rfl; exact ⟨rfl, fun _ => hp⟩
    · rintro ⟨e, -⟩; exact e.symm
  · next hp =>
    cases clip
    · simp only [Fin.ext_iff, Bool.false_eq_true, if_false, Option.some.injEq, false_imp_iff, and_true]
      exact eq_comm
    · simp [hp]

theorem mem_rowCells (clip : Bool) (x0 : Nat) (row : Fin 32) (b : Byte) (k : Fin 2048) :
    k ∈ rowCells clip x0 row b ↔
      ∃ c < 8, b.getLsbD (7 - c) = true ∧
        ∃ col, wrapOrClip clip 64 (x0 + c) (by decide) = some col ∧ k = cellIndex row col := by
  simp only [rowCells, List.mem_filterMap, List.mem_range]
  refine exists_congr fun c => and_congr_right fun _ => ?_
  split
  · next hb => simp [hb, eq_comm]
  · next hb => simp [hb]

/-- The cells of a sprite (spec/44_display.md R161 to R166). -/
theorem mem_spriteCells (clip : Bool) (x0 y0 : Nat) (bs : List Byte) (k : Fin 2048) :
    k ∈ spriteCells clip x0 y0 bs ↔
      ∃ (r : Nat) (hr : r < bs.length) (row : Fin 32),
        wrapOrClip clip 32 (y0 + r) (by decide) = some row ∧ k ∈ rowCells clip x0 row bs[r] := by
  induction bs generalizing y0 with
  | nil => simp [spriteCells]
  | cons b bs ih =>
    rw [spriteCells, List.mem_append, ih]
    constructor
    · rintro (h | ⟨r, hr, row, hrow, hk⟩)
      · split at h
        · next row hrow => exact ⟨0, by simp, row, hrow, h⟩
        · simp at h
      · exact ⟨r + 1, by simpa using hr, row, by rwa [Nat.add_assoc, Nat.add_comm 1 r] at hrow, by simpa using hk⟩
    · rintro ⟨r, hr, row, hrow, hk⟩
      cases r with
      | zero => exact .inl (by simp only [Nat.add_zero] at hrow; rw [hrow]; simpa using hk)
      | succ r =>
        exact .inr ⟨r, by simpa using hr, row, by rwa [Nat.add_assoc, Nat.add_comm 1 r], by simpa using hk⟩

/-- The columns of one row's cells are distinct: 8 columns are fewer than 64 (spec/44_display.md R167). -/
theorem nodup_rowCells (clip : Bool) (x0 : Nat) (row : Fin 32) (b : Byte) : (rowCells clip x0 row b).Nodup := by
  unfold rowCells List.Nodup
  rw [List.pairwise_filterMap]
  refine List.pairwise_lt_range.imp_of_mem ?_
  intro c c' _ hc' hlt k hk k' hk' e
  have hc' := List.mem_range.mp hc'
  subst e
  split at hk <;> [skip; cases hk]
  split at hk' <;> [skip; cases hk']
  obtain ⟨col, h1, e1⟩ := Option.map_eq_some_iff.mp hk
  obtain ⟨col', h2, e2⟩ := Option.map_eq_some_iff.mp hk'
  have := (cellIndex_inj (e1.trans e2.symm)).2
  have h1 := ((wrapOrClip_eq_some _ _ _ _ _).mp h1).1
  have h2 := ((wrapOrClip_eq_some _ _ _ _ _).mp h2).1
  subst this
  omega

theorem row_of_mem_rowCells {clip : Bool} {x0 : Nat} {row row' : Fin 32} {b b' : Byte} {k : Fin 2048}
    (h : k ∈ rowCells clip x0 row b) (h' : k ∈ rowCells clip x0 row' b') : row = row' := by
  obtain ⟨_, _, _, _, _, e⟩ := (mem_rowCells _ _ _ _ _).mp h
  obtain ⟨_, _, _, _, _, e'⟩ := (mem_rowCells _ _ _ _ _).mp h'
  exact (cellIndex_inj (e.symm.trans e')).1

/-- Two sprite bits never land on one pixel: at most 15 rows are fewer than 32 (spec/44_display.md R167). -/
theorem nodup_spriteCells (clip : Bool) (x0 y0 : Nat) (bs : List Byte) (h : bs.length ≤ 32) :
    (spriteCells clip x0 y0 bs).Nodup := by
  induction bs generalizing y0 with
  | nil => simp [spriteCells]
  | cons b bs ih =>
    have hlen : bs.length < 32 := by simpa using h
    rw [spriteCells, List.nodup_append]
    refine ⟨?_, ih _ hlen.le, ?_⟩
    · split
      · exact nodup_rowCells _ _ _ _
      · exact List.nodup_nil
    · intro k hk k' hk' e
      subst e
      obtain ⟨r, hr, row', hrow', hk'⟩ := (mem_spriteCells _ _ _ _ _).mp hk'
      split at hk
      · next row hrow =>
        have := row_of_mem_rowCells hk hk'
        have h1 := ((wrapOrClip_eq_some _ _ _ _ _).mp hrow).1
        have h2 := ((wrapOrClip_eq_some _ _ _ _ _).mp hrow').1
        subst this
        omega
      · simp at hk

/-! ### DXYN -/

theorem length_spriteBytes (s : State) (n : Nibble) : (spriteBytes s n).length = n.toNat := by
  simp [spriteBytes]

theorem nodup_drawnCells (s : State) (x y : RegIdx) (n : Nibble) : (drawnCells s x y n).Nodup :=
  nodup_spriteCells _ _ _ _ (by have := n.isLt; rw [length_spriteBytes]; omega)

@[simp] theorem latchDraw_eq (s : State) :
    latchDraw s = { s with dwLatch := s.cfg.quirks.displayWait || s.dwLatch } := by
  unfold latchDraw
  cases h : s.cfg.quirks.displayWait <;> simp

/-- A DXYN that draws changes the screen, the latch and VF, and nothing else. -/
theorem drawSprite_eq (s : State) (x y : RegIdx) (n : Nibble) :
    drawSprite s x y n =
      setV { s with screen := (drawCells s.screen (drawnCells s x y n)).1,
                    dwLatch := s.cfg.quirks.displayWait || s.dwLatch }
        vf (flagByte (drawCells s.screen (drawnCells s x y n)).2) := by
  simp [drawSprite, setScreen]

end Sys2Proof.Machine
end

