-- ==== Sys2Proof/Laws/Encoding.lean ====
section
/-! SUPPORT. The fields of an encoded word, and a word from its fields (spec/30_encoding.md R71, R72). -/

namespace Sys2Proof

/-! ### The bits of a word of each format -/

theorem getLsbD_formA (op : Nibble) (nnn : Addr) (k : Nat) :
    (formA op nnn).getLsbD k = if k < 12 then nnn.getLsbD k else op.getLsbD (k - 12) :=
  BitVec.getLsbD_append

theorem getLsbD_formXB (op : Nibble) (x : RegIdx) (nn : Byte) (k : Nat) :
    (formXB op x nn).getLsbD k =
      if k < 8 then nn.getLsbD k else if k - 8 < 4 then x.getLsbD (k - 8) else op.getLsbD (k - 8 - 4) :=
  (BitVec.getLsbD_append (x := op ++ x) (y := nn)).trans (by rw [BitVec.getLsbD_append])

theorem getLsbD_formXYN (op : Nibble) (x y : RegIdx) (n : Nibble) (k : Nat) :
    (formXYN op x y n).getLsbD k =
      if k < 4 then n.getLsbD k else if k - 4 < 4 then y.getLsbD (k - 4)
      else if k - 4 - 4 < 4 then x.getLsbD (k - 4 - 4) else op.getLsbD (k - 4 - 4 - 4) :=
  (BitVec.getLsbD_append (x := op ++ x ++ y) (y := n)).trans (by rw [BitVec.getLsbD_append, BitVec.getLsbD_append])

/-! ### The fields of a word of each format -/

@[simp] theorem fieldOp_formA (op : Nibble) (nnn : Addr) : fieldOp (formA op nnn) = op := by
  apply BitVec.eq_of_getLsbD_eq
  intro k hk
  simp only [fieldOp, BitVec.getLsbD_extractLsb', getLsbD_formA]
  interval_cases k <;> simp

@[simp] theorem fieldNNN_formA (op : Nibble) (nnn : Addr) : fieldNNN (formA op nnn) = nnn := by
  apply BitVec.eq_of_getLsbD_eq
  intro k hk
  simp only [fieldNNN, BitVec.getLsbD_extractLsb', getLsbD_formA]
  interval_cases k <;> simp

@[simp] theorem fieldOp_formXB (op : Nibble) (x : RegIdx) (nn : Byte) : fieldOp (formXB op x nn) = op := by
  apply BitVec.eq_of_getLsbD_eq
  intro k hk
  simp only [fieldOp, BitVec.getLsbD_extractLsb', getLsbD_formXB]
  interval_cases k <;> simp

@[simp] theorem fieldX_formXB (op : Nibble) (x : RegIdx) (nn : Byte) : fieldX (formXB op x nn) = x := by
  apply BitVec.eq_of_getLsbD_eq
  intro k hk
  simp only [fieldX, BitVec.getLsbD_extractLsb', getLsbD_formXB]
  interval_cases k <;> simp

@[simp] theorem fieldNN_formXB (op : Nibble) (x : RegIdx) (nn : Byte) : fieldNN (formXB op x nn) = nn := by
  apply BitVec.eq_of_getLsbD_eq
  intro k hk
  simp only [fieldNN, BitVec.getLsbD_extractLsb', getLsbD_formXB]
  interval_cases k <;> simp

@[simp] theorem fieldOp_formXYN (op : Nibble) (x y : RegIdx) (n : Nibble) : fieldOp (formXYN op x y n) = op := by
  apply BitVec.eq_of_getLsbD_eq
  intro k hk
  simp only [fieldOp, BitVec.getLsbD_extractLsb', getLsbD_formXYN]
  interval_cases k <;> simp

@[simp] theorem fieldX_formXYN (op : Nibble) (x y : RegIdx) (n : Nibble) : fieldX (formXYN op x y n) = x := by
  apply BitVec.eq_of_getLsbD_eq
  intro k hk
  simp only [fieldX, BitVec.getLsbD_extractLsb', getLsbD_formXYN]
  interval_cases k <;> simp

@[simp] theorem fieldY_formXYN (op : Nibble) (x y : RegIdx) (n : Nibble) : fieldY (formXYN op x y n) = y := by
  apply BitVec.eq_of_getLsbD_eq
  intro k hk
  simp only [fieldY, BitVec.getLsbD_extractLsb', getLsbD_formXYN]
  interval_cases k <;> simp

@[simp] theorem fieldN_formXYN (op : Nibble) (x y : RegIdx) (n : Nibble) : fieldN (formXYN op x y n) = n := by
  apply BitVec.eq_of_getLsbD_eq
  intro k hk
  simp only [fieldN, BitVec.getLsbD_extractLsb', getLsbD_formXYN]
  interval_cases k <;> simp

/-! ### A word from its fields -/

theorem formA_fields (w : Word) : formA (fieldOp w) (fieldNNN w) = w := by
  apply BitVec.eq_of_getLsbD_eq
  intro k hk
  simp only [getLsbD_formA, fieldOp, fieldNNN, BitVec.getLsbD_extractLsb']
  interval_cases k <;> simp

theorem formXB_fields (w : Word) : formXB (fieldOp w) (fieldX w) (fieldNN w) = w := by
  apply BitVec.eq_of_getLsbD_eq
  intro k hk
  simp only [getLsbD_formXB, fieldOp, fieldX, fieldNN, BitVec.getLsbD_extractLsb']
  interval_cases k <;> simp

theorem formXYN_fields (w : Word) : formXYN (fieldOp w) (fieldX w) (fieldY w) (fieldN w) = w := by
  apply BitVec.eq_of_getLsbD_eq
  intro k hk
  simp only [getLsbD_formXYN, fieldOp, fieldX, fieldY, fieldN, BitVec.getLsbD_extractLsb']
  interval_cases k <;> simp

/-- The two bytes of a word give it back, the high byte first (spec/20_memory.md R54). -/
@[simp] theorem wordOfBytes_bytes (w : Word) : wordOfBytes (hiByte w) (loByte w) = w := by
  apply BitVec.eq_of_getLsbD_eq
  intro k hk
  have h : (wordOfBytes (hiByte w) (loByte w)).getLsbD k =
      if k < 8 then (loByte w).getLsbD k else (hiByte w).getLsbD (k - 8) := BitVec.getLsbD_append
  rw [h]
  simp only [hiByte, loByte, BitVec.getLsbD_extractLsb']
  interval_cases k <;> simp

/-- A nibble that is none of the other fifteen is F: the last arm of `decode` is OP = F (spec/30_encoding.md R75). -/
theorem nibble_eq_F (op : Nibble)
    (h : op ∉ [0x0#4, 0x1#4, 0x2#4, 0x3#4, 0x4#4, 0x5#4, 0x6#4, 0x7#4, 0x8#4, 0x9#4, 0xA#4, 0xB#4, 0xC#4, 0xD#4, 0xE#4]) :
    op = 0xF#4 := by
  revert op; decide

/-! ### The bits under the masks of the opcode map -/

theorem formA_and_F000 (op : Nibble) (nnn : Addr) : formA op nnn &&& 0xF000#16 = formA op 0#12 := by
  apply BitVec.eq_of_getLsbD_eq
  intro k hk
  simp only [BitVec.getLsbD_and, getLsbD_formA]
  interval_cases k <;> simp

theorem formXB_and_F000 (op : Nibble) (x : RegIdx) (nn : Byte) : formXB op x nn &&& 0xF000#16 = formA op 0#12 := by
  apply BitVec.eq_of_getLsbD_eq
  intro k hk
  simp only [BitVec.getLsbD_and, getLsbD_formA, getLsbD_formXB]
  interval_cases k <;> simp

theorem formXYN_and_F000 (op : Nibble) (x y : RegIdx) (n : Nibble) : formXYN op x y n &&& 0xF000#16 = formA op 0#12 := by
  apply BitVec.eq_of_getLsbD_eq
  intro k hk
  simp only [BitVec.getLsbD_and, getLsbD_formA, getLsbD_formXYN]
  interval_cases k <;> simp

theorem formXB_and_F0FF (op : Nibble) (x : RegIdx) (nn : Byte) : formXB op x nn &&& 0xF0FF#16 = formXB op 0#4 nn := by
  apply BitVec.eq_of_getLsbD_eq
  intro k hk
  simp only [BitVec.getLsbD_and, getLsbD_formXB]
  interval_cases k <;> simp

theorem formXYN_and_F00F (op : Nibble) (x y : RegIdx) (n : Nibble) : formXYN op x y n &&& 0xF00F#16 = formXYN op 0#4 0#4 n := by
  apply BitVec.eq_of_getLsbD_eq
  intro k hk
  simp only [BitVec.getLsbD_and, getLsbD_formXYN]
  interval_cases k <;> simp

end Sys2Proof
end

