-- ==== Sys2Proof/Laws/Exec.lean ====
section
/-! SUPPORT. What each instruction does, once, over the normal forms of Laws/Ops.lean and Laws/Draw.lean; proofs cite
these equations and do not unfold a meaning. -/

namespace Sys2Proof.Machine

variable (s : State) (x y : RegIdx) (n : Nibble) (nn : Byte) (nnn : Addr)

/-! ### Control flow -/

theorem exec_sys : exec (.sys nnn) s = .next (raiseFatal .unimplementedLegacy (encode (.sys nnn)) s) := rfl

theorem exec_cls : exec .cls s = .next (setScreen s blankScreen) := rfl

theorem exec_jp : exec (.jp nnn) s = .next (setPc s (addrOperand nnn)) := rfl

theorem exec_ret_empty (h : s.stack = []) :
    exec .ret s = .next (raiseFatal .stackUnderflow (encode .ret) s) := by
  simp [exec, execRet, h]

theorem exec_ret_append (below : List Word) (a : Word) (h : s.stack = below ++ [a]) :
    exec .ret s = .next (setPc (dropTop s) a) := by
  simp [exec, execRet, h]

theorem exec_call_room (h : s.sp < s.cfg.stackCap) :
    exec (.call nnn) s = .next (setPc (push s s.pc) (addrOperand nnn)) := by
  simp only [exec, execCall, if_pos h]

theorem exec_call_full (h : s.cfg.stackCap ≤ s.sp) :
    exec (.call nnn) s = .next (raiseFatal .stackOverflow (encode (.call nnn)) s) := by
  simp only [exec, execCall, if_neg (Nat.not_lt.mpr h)]

theorem exec_seImm : exec (.seImm x nn) s = .next (skipIf (getV s x == nn) s) := rfl

theorem exec_sneImm : exec (.sneImm x nn) s = .next (skipIf (getV s x != nn) s) := rfl

theorem exec_seReg : exec (.seReg x y n) s = .next (skipIf (getV s x == getV s y) s) := rfl

theorem exec_sneReg : exec (.sneReg x y n) s = .next (skipIf (getV s x != getV s y) s) := rfl

theorem exec_jpV0 :
    exec (.jpV0 nnn) s = .next (setPc s (addrOperand nnn + (getV s (jumpSelector s nnn)).setWidth 16)) := rfl

/-! ### Register operations -/

theorem exec_ldImm : exec (.ldImm x nn) s = .next (setV s x nn) := rfl

theorem exec_addImm : exec (.addImm x nn) s = .next (setV s x (getV s x + nn)) := rfl

theorem exec_ldReg : exec (.ldReg x y) s = .next (setV s x (getV s y)) := rfl

theorem exec_orReg : exec (.orReg x y) s = .next (setBitwiseResult s x (getV s x ||| getV s y)) := rfl

theorem exec_andReg : exec (.andReg x y) s = .next (setBitwiseResult s x (getV s x &&& getV s y)) := rfl

theorem exec_xorReg : exec (.xorReg x y) s = .next (setBitwiseResult s x (getV s x ^^^ getV s y)) := rfl

theorem exec_addReg : exec (.addReg x y) s =
    .next (setResultThenFlag s x (getV s x + getV s y) (carry (getV s x) (getV s y))) := rfl

theorem exec_subReg : exec (.subReg x y) s =
    .next (setResultThenFlag s x (getV s x - getV s y) (noBorrow (getV s x) (getV s y))) := rfl

theorem exec_subnReg : exec (.subnReg x y) s =
    .next (setResultThenFlag s x (getV s y - getV s x) (noBorrow (getV s y) (getV s x))) := rfl

theorem exec_shrReg : exec (.shrReg x y) s =
    .next (setResultThenFlag s x (shiftSource s x y >>> 1) (shiftedOutRight (shiftSource s x y))) := rfl

theorem exec_shlReg : exec (.shlReg x y) s =
    .next (setResultThenFlag s x (shiftSource s x y <<< 1) (shiftedOutLeft (shiftSource s x y))) := rfl

/-! ### The index register, loads and stores -/

theorem exec_ldI : exec (.ldI nnn) s = .next (setI s (addrOperand nnn)) := rfl

theorem exec_addI : exec (.addI x) s = .next (setI s (s.i + (getV s x).setWidth 16)) := rfl

theorem exec_ldFont : exec (.ldFont x) s = .next (setI s ((lowNibble (getV s x)).setWidth 16 * 5)) := rfl

theorem exec_ldBcd : exec (.ldBcd x) s = .next (memWriteBytes s s.i (bcdDigits (getV s x))) := rfl

theorem exec_storeRegs : exec (.storeRegs x) s =
    .next (advanceIndex (memWriteBytes s s.i ((regsThrough x).map (getV s))) x) := by
  simp only [exec, execStoreRegs, storeRange_eq]

theorem exec_loadRegs : exec (.loadRegs x) s =
    .next (advanceIndex { s with regs := ((regsThrough x).foldl loadReg s).regs } x) := by
  simp only [exec, execLoadRegs]
  rw [← (loadRange_spec (regsThrough x) s).1]

/-! ### Display, input, timers, random byte -/

theorem exec_drw_wait (h : s.cfg.quirks.displayWait = true) (h' : s.dwLatch = true) :
    exec (.drw x y n) s = .next (retryDraw s) := by
  simp [exec, execDrw, h, h']

theorem exec_drw_draw (h : ¬(s.cfg.quirks.displayWait = true ∧ s.dwLatch = true)) :
    exec (.drw x y n) s = .next (drawSprite s x y n) := by
  simp only [exec, execDrw]
  rw [if_neg (by simpa using h)]

theorem exec_skp : exec (.skp x) s = .next (skipIf (keyDown s (lowNibble (getV s x))) s) := rfl

theorem exec_sknp : exec (.sknp x) s = .next (skipIf (!keyDown s (lowNibble (getV s x))) s) := rfl

theorem exec_ldVxKey_some (k : Key) (h : firstKeyDown s = some k) :
    exec (.ldVxKey x) s = .next (storeKey s x k) := by
  simp only [exec, execLdVxKey, h]

theorem exec_ldVxKey_none (h : firstKeyDown s = none) : exec (.ldVxKey x) s = .next (block s x) := by
  simp only [exec, execLdVxKey, h]

theorem exec_ldVxDt : exec (.ldVxDt x) s = .next (setV s x s.dt) := rfl

theorem exec_ldDtVx : exec (.ldDtVx x) s = .next (setDt s (getV s x)) := rfl

theorem exec_ldStVx : exec (.ldStVx x) s = .next (setSt s (getV s x)) := rfl

theorem exec_rnd : exec (.rnd x nn) s = .next (countDraw (setV s x (rndByte s &&& nn))) := rfl

/-! ### What every instruction can do -/

/-- Every instruction in one shape: it writes registers only (and counts a draw), or it is one of the named updates. -/
theorem exec_cases (i : Instr) (t : State) (h : exec i s = .next t) :
    (∃ r d, t = { s with regs := r, draws := d }) ∨ (∃ a, t = setPc s a) ∨ (∃ a, t = setI s a) ∨
    (∃ b, t = setDt s b) ∨ (∃ b, t = setSt s b) ∨ t = setScreen s blankScreen ∨
    (∃ r a, t = setI { s with regs := r } a) ∨ (∃ w vs a, t = setI (memWriteBytes s w vs) a) ∨
    (∃ k w, t = raiseFatal k w s) ∨ (s.sp < s.cfg.stackCap ∧ ∃ a, t = setPc (push s s.pc) a) ∨
    (∃ a, t = setPc (dropTop s) a) ∨ (∃ x', firstKeyDown s = none ∧ t = block s x') ∨
    (∃ x' y' n', t = drawSprite s x' y' n') := by
  cases i with
  | sys nnn => cases h; exact .inr (.inr (.inr (.inr (.inr (.inr (.inr (.inr (.inl ⟨_, _, rfl⟩))))))))
  | cls => cases h; exact .inr (.inr (.inr (.inr (.inr (.inl rfl)))))
  | ret =>
    rcases List.eq_nil_or_concat s.stack with he | ⟨below, a, he⟩
    · rw [exec_ret_empty s he] at h
      cases h; exact .inr (.inr (.inr (.inr (.inr (.inr (.inr (.inr (.inl ⟨_, _, rfl⟩))))))))
    · rw [exec_ret_append s below a (by simpa using he)] at h
      cases h; exact .inr (.inr (.inr (.inr (.inr (.inr (.inr (.inr (.inr (.inr (.inl ⟨_, rfl⟩))))))))))
  | call nnn =>
    by_cases hc : s.sp < s.cfg.stackCap
    · rw [exec_call_room s nnn hc] at h
      cases h; exact .inr (.inr (.inr (.inr (.inr (.inr (.inr (.inr (.inr (.inl ⟨hc, _, rfl⟩)))))))))
    · rw [exec_call_full s nnn (Nat.not_lt.mp hc)] at h
      cases h; exact .inr (.inr (.inr (.inr (.inr (.inr (.inr (.inr (.inl ⟨_, _, rfl⟩))))))))
  | drw x y n =>
    by_cases hd : s.cfg.quirks.displayWait = true ∧ s.dwLatch = true
    · rw [exec_drw_wait s x y n hd.1 hd.2, retryDraw_eq] at h
      cases h; exact .inr (.inl ⟨_, rfl⟩)
    · rw [exec_drw_draw s x y n hd] at h
      cases h; exact .inr (.inr (.inr (.inr (.inr (.inr (.inr (.inr (.inr (.inr (.inr (.inr ⟨_, _, _, rfl⟩)))))))))))
  | ldVxKey x =>
    cases hk : firstKeyDown s with
    | none =>
      rw [exec_ldVxKey_none s x hk] at h
      cases h; exact .inr (.inr (.inr (.inr (.inr (.inr (.inr (.inr (.inr (.inr (.inr (.inl ⟨_, rfl, rfl⟩)))))))))))
    | some k =>
      rw [exec_ldVxKey_some s x k hk] at h
      cases h; exact .inl ⟨_, s.draws, rfl⟩
  | storeRegs x =>
    rw [exec_storeRegs, advanceIndex_eq] at h
    cases h; exact .inr (.inr (.inr (.inr (.inr (.inr (.inr (.inl ⟨_, _, _, rfl⟩)))))))
  | loadRegs x =>
    rw [exec_loadRegs, advanceIndex_eq] at h
    cases h; exact .inr (.inr (.inr (.inr (.inr (.inr (.inl ⟨_, _, rfl⟩))))))
  | ldBcd x =>
    rw [exec_ldBcd] at h
    injection h with h
    have e : t = setI (memWriteBytes s s.i (bcdDigits (getV s x))) s.i := by
      rw [← h, memWriteBytes_eq]; rfl
    exact .inr (.inr (.inr (.inr (.inr (.inr (.inr (.inl ⟨_, _, _, e⟩)))))))
  | orReg x y => rw [exec_orReg, setBitwiseResult_eq] at h; cases h; exact .inl ⟨_, s.draws, rfl⟩
  | andReg x y => rw [exec_andReg, setBitwiseResult_eq] at h; cases h; exact .inl ⟨_, s.draws, rfl⟩
  | xorReg x y => rw [exec_xorReg, setBitwiseResult_eq] at h; cases h; exact .inl ⟨_, s.draws, rfl⟩
  | jp nnn => cases h; exact .inr (.inl ⟨_, rfl⟩)
  | jpV0 nnn => cases h; exact .inr (.inl ⟨_, rfl⟩)
  | seImm x nn => rw [exec_seImm, skipIf_eq] at h; cases h; exact .inr (.inl ⟨_, rfl⟩)
  | sneImm x nn => rw [exec_sneImm, skipIf_eq] at h; cases h; exact .inr (.inl ⟨_, rfl⟩)
  | seReg x y n => rw [exec_seReg, skipIf_eq] at h; cases h; exact .inr (.inl ⟨_, rfl⟩)
  | sneReg x y n => rw [exec_sneReg, skipIf_eq] at h; cases h; exact .inr (.inl ⟨_, rfl⟩)
  | skp x => rw [exec_skp, skipIf_eq] at h; cases h; exact .inr (.inl ⟨_, rfl⟩)
  | sknp x => rw [exec_sknp, skipIf_eq] at h; cases h; exact .inr (.inl ⟨_, rfl⟩)
  | ldI nnn => cases h; exact .inr (.inr (.inl ⟨_, rfl⟩))
  | addI x => cases h; exact .inr (.inr (.inl ⟨_, rfl⟩))
  | ldFont x => cases h; exact .inr (.inr (.inl ⟨_, rfl⟩))
  | ldDtVx x => cases h; exact .inr (.inr (.inr (.inl ⟨_, rfl⟩)))
  | ldStVx x => cases h; exact .inr (.inr (.inr (.inr (.inl ⟨_, rfl⟩))))
  | rnd x nn => cases h; exact .inl ⟨_, s.draws + 1, rfl⟩
  | ldImm x nn => cases h; exact .inl ⟨_, s.draws, rfl⟩
  | addImm x nn => cases h; exact .inl ⟨_, s.draws, rfl⟩
  | ldReg x y => cases h; exact .inl ⟨_, s.draws, rfl⟩
  | addReg x y => cases h; exact .inl ⟨_, s.draws, rfl⟩
  | subReg x y => cases h; exact .inl ⟨_, s.draws, rfl⟩
  | subnReg x y => cases h; exact .inl ⟨_, s.draws, rfl⟩
  | shrReg x y => cases h; exact .inl ⟨_, s.draws, rfl⟩
  | shlReg x y => cases h; exact .inl ⟨_, s.draws, rfl⟩
  | ldVxDt x => cases h; exact .inl ⟨_, s.draws, rfl⟩

end Sys2Proof.Machine
end

