-- ==== Sys2Proof/Laws/PerInstr.lean ====
section
/-! SUPPORT. Laws about every instruction as syntax, one lemma per constructor. -/

namespace Sys2Proof.Laws

/-- The word of a well-formed instruction is a word of the opcode map's row of its name (spec/30_encoding.md R84). -/
def TableRow.Statement (i : Instr) : Prop :=
  i.wf = true → ∃ r ∈ opcodeTable, r.mnemonic = i.mnemonic ∧ r.covers (encode i) = true

theorem TableRow.of_masked (i : Instr) (r : OpcodeRow) (hm : r ∈ opcodeTable) (hn : r.mnemonic = i.mnemonic)
    (h : encode i &&& r.mask = r.value) : TableRow.Statement i :=
  fun _ => ⟨r, hm, hn, by simpa [OpcodeRow.covers] using h⟩

theorem TableRow.sys (nnn : Addr) : TableRow.Statement (.sys nnn) :=
  TableRow.of_masked (.sys nnn) ⟨"SYS_addr", 0xF000#16, 0x0000#16⟩ (by decide) rfl ((formA_and_F000 ..).trans (by decide))

theorem TableRow.cls : TableRow.Statement .cls :=
  TableRow.of_masked .cls ⟨"CLS", 0xFFFF#16, 0x00E0#16⟩ (by decide) rfl (by decide)

theorem TableRow.ret : TableRow.Statement .ret :=
  TableRow.of_masked .ret ⟨"RET", 0xFFFF#16, 0x00EE#16⟩ (by decide) rfl (by decide)

theorem TableRow.jp (nnn : Addr) : TableRow.Statement (.jp nnn) :=
  TableRow.of_masked (.jp nnn) ⟨"JP_addr", 0xF000#16, 0x1000#16⟩ (by decide) rfl ((formA_and_F000 ..).trans (by decide))

theorem TableRow.call (nnn : Addr) : TableRow.Statement (.call nnn) :=
  TableRow.of_masked (.call nnn) ⟨"CALL_addr", 0xF000#16, 0x2000#16⟩ (by decide) rfl ((formA_and_F000 ..).trans (by decide))

theorem TableRow.seImm (x : RegIdx) (nn : Byte) : TableRow.Statement (.seImm x nn) :=
  TableRow.of_masked (.seImm x nn) ⟨"SE_Vx__byte", 0xF000#16, 0x3000#16⟩ (by decide) rfl ((formXB_and_F000 ..).trans (by decide))

theorem TableRow.sneImm (x : RegIdx) (nn : Byte) : TableRow.Statement (.sneImm x nn) :=
  TableRow.of_masked (.sneImm x nn) ⟨"SNE_Vx__byte", 0xF000#16, 0x4000#16⟩ (by decide) rfl ((formXB_and_F000 ..).trans (by decide))

theorem TableRow.seReg (x y : RegIdx) (n : Nibble) : TableRow.Statement (.seReg x y n) :=
  TableRow.of_masked (.seReg x y n) ⟨"SE_Vx__Vy", 0xF000#16, 0x5000#16⟩ (by decide) rfl ((formXYN_and_F000 ..).trans (by decide))

theorem TableRow.ldImm (x : RegIdx) (nn : Byte) : TableRow.Statement (.ldImm x nn) :=
  TableRow.of_masked (.ldImm x nn) ⟨"LD_Vx__byte", 0xF000#16, 0x6000#16⟩ (by decide) rfl ((formXB_and_F000 ..).trans (by decide))

theorem TableRow.addImm (x : RegIdx) (nn : Byte) : TableRow.Statement (.addImm x nn) :=
  TableRow.of_masked (.addImm x nn) ⟨"ADD_Vx__byte", 0xF000#16, 0x7000#16⟩ (by decide) rfl ((formXB_and_F000 ..).trans (by decide))

theorem TableRow.ldReg (x y : RegIdx) : TableRow.Statement (.ldReg x y) :=
  TableRow.of_masked (.ldReg x y) ⟨"LD_Vx__Vy", 0xF00F#16, 0x8000#16⟩ (by decide) rfl ((formXYN_and_F00F ..).trans (by decide))

theorem TableRow.orReg (x y : RegIdx) : TableRow.Statement (.orReg x y) :=
  TableRow.of_masked (.orReg x y) ⟨"OR_Vx__Vy", 0xF00F#16, 0x8001#16⟩ (by decide) rfl ((formXYN_and_F00F ..).trans (by decide))

theorem TableRow.andReg (x y : RegIdx) : TableRow.Statement (.andReg x y) :=
  TableRow.of_masked (.andReg x y) ⟨"AND_Vx__Vy", 0xF00F#16, 0x8002#16⟩ (by decide) rfl ((formXYN_and_F00F ..).trans (by decide))

theorem TableRow.xorReg (x y : RegIdx) : TableRow.Statement (.xorReg x y) :=
  TableRow.of_masked (.xorReg x y) ⟨"XOR_Vx__Vy", 0xF00F#16, 0x8003#16⟩ (by decide) rfl ((formXYN_and_F00F ..).trans (by decide))

theorem TableRow.addReg (x y : RegIdx) : TableRow.Statement (.addReg x y) :=
  TableRow.of_masked (.addReg x y) ⟨"ADD_Vx__Vy", 0xF00F#16, 0x8004#16⟩ (by decide) rfl ((formXYN_and_F00F ..).trans (by decide))

theorem TableRow.subReg (x y : RegIdx) : TableRow.Statement (.subReg x y) :=
  TableRow.of_masked (.subReg x y) ⟨"SUB_Vx__Vy", 0xF00F#16, 0x8005#16⟩ (by decide) rfl ((formXYN_and_F00F ..).trans (by decide))

theorem TableRow.shrReg (x y : RegIdx) : TableRow.Statement (.shrReg x y) :=
  TableRow.of_masked (.shrReg x y) ⟨"SHR_Vx__Vy", 0xF00F#16, 0x8006#16⟩ (by decide) rfl ((formXYN_and_F00F ..).trans (by decide))

theorem TableRow.subnReg (x y : RegIdx) : TableRow.Statement (.subnReg x y) :=
  TableRow.of_masked (.subnReg x y) ⟨"SUBN_Vx__Vy", 0xF00F#16, 0x8007#16⟩ (by decide) rfl ((formXYN_and_F00F ..).trans (by decide))

theorem TableRow.shlReg (x y : RegIdx) : TableRow.Statement (.shlReg x y) :=
  TableRow.of_masked (.shlReg x y) ⟨"SHL_Vx__Vy", 0xF00F#16, 0x800E#16⟩ (by decide) rfl ((formXYN_and_F00F ..).trans (by decide))

theorem TableRow.sneReg (x y : RegIdx) (n : Nibble) : TableRow.Statement (.sneReg x y n) :=
  TableRow.of_masked (.sneReg x y n) ⟨"SNE_Vx__Vy", 0xF000#16, 0x9000#16⟩ (by decide) rfl ((formXYN_and_F000 ..).trans (by decide))

theorem TableRow.ldI (nnn : Addr) : TableRow.Statement (.ldI nnn) :=
  TableRow.of_masked (.ldI nnn) ⟨"LD_I__addr", 0xF000#16, 0xA000#16⟩ (by decide) rfl ((formA_and_F000 ..).trans (by decide))

theorem TableRow.jpV0 (nnn : Addr) : TableRow.Statement (.jpV0 nnn) :=
  TableRow.of_masked (.jpV0 nnn) ⟨"JP_V0__addr", 0xF000#16, 0xB000#16⟩ (by decide) rfl ((formA_and_F000 ..).trans (by decide))

theorem TableRow.rnd (x : RegIdx) (nn : Byte) : TableRow.Statement (.rnd x nn) :=
  TableRow.of_masked (.rnd x nn) ⟨"RND_Vx__byte", 0xF000#16, 0xC000#16⟩ (by decide) rfl ((formXB_and_F000 ..).trans (by decide))

theorem TableRow.drw (x y : RegIdx) (n : Nibble) : TableRow.Statement (.drw x y n) :=
  TableRow.of_masked (.drw x y n) ⟨"DRW_Vx__Vy__nibble", 0xF000#16, 0xD000#16⟩ (by decide) rfl ((formXYN_and_F000 ..).trans (by decide))

theorem TableRow.skp (x : RegIdx) : TableRow.Statement (.skp x) :=
  TableRow.of_masked (.skp x) ⟨"SKP_Vx", 0xF0FF#16, 0xE09E#16⟩ (by decide) rfl ((formXB_and_F0FF ..).trans (by decide))

theorem TableRow.sknp (x : RegIdx) : TableRow.Statement (.sknp x) :=
  TableRow.of_masked (.sknp x) ⟨"SKNP_Vx", 0xF0FF#16, 0xE0A1#16⟩ (by decide) rfl ((formXB_and_F0FF ..).trans (by decide))

theorem TableRow.ldVxDt (x : RegIdx) : TableRow.Statement (.ldVxDt x) :=
  TableRow.of_masked (.ldVxDt x) ⟨"LD_Vx__DT", 0xF0FF#16, 0xF007#16⟩ (by decide) rfl ((formXB_and_F0FF ..).trans (by decide))

theorem TableRow.ldVxKey (x : RegIdx) : TableRow.Statement (.ldVxKey x) :=
  TableRow.of_masked (.ldVxKey x) ⟨"LD_Vx__K", 0xF0FF#16, 0xF00A#16⟩ (by decide) rfl ((formXB_and_F0FF ..).trans (by decide))

theorem TableRow.ldDtVx (x : RegIdx) : TableRow.Statement (.ldDtVx x) :=
  TableRow.of_masked (.ldDtVx x) ⟨"LD_DT__Vx", 0xF0FF#16, 0xF015#16⟩ (by decide) rfl ((formXB_and_F0FF ..).trans (by decide))

theorem TableRow.ldStVx (x : RegIdx) : TableRow.Statement (.ldStVx x) :=
  TableRow.of_masked (.ldStVx x) ⟨"LD_ST__Vx", 0xF0FF#16, 0xF018#16⟩ (by decide) rfl ((formXB_and_F0FF ..).trans (by decide))

theorem TableRow.addI (x : RegIdx) : TableRow.Statement (.addI x) :=
  TableRow.of_masked (.addI x) ⟨"ADD_I__Vx", 0xF0FF#16, 0xF01E#16⟩ (by decide) rfl ((formXB_and_F0FF ..).trans (by decide))

theorem TableRow.ldFont (x : RegIdx) : TableRow.Statement (.ldFont x) :=
  TableRow.of_masked (.ldFont x) ⟨"LD_F__Vx", 0xF0FF#16, 0xF029#16⟩ (by decide) rfl ((formXB_and_F0FF ..).trans (by decide))

theorem TableRow.ldBcd (x : RegIdx) : TableRow.Statement (.ldBcd x) :=
  TableRow.of_masked (.ldBcd x) ⟨"LD_B__Vx", 0xF0FF#16, 0xF033#16⟩ (by decide) rfl ((formXB_and_F0FF ..).trans (by decide))

theorem TableRow.storeRegs (x : RegIdx) : TableRow.Statement (.storeRegs x) :=
  TableRow.of_masked (.storeRegs x) ⟨"LD__I___Vx", 0xF0FF#16, 0xF055#16⟩ (by decide) rfl ((formXB_and_F0FF ..).trans (by decide))

theorem TableRow.loadRegs (x : RegIdx) : TableRow.Statement (.loadRegs x) :=
  TableRow.of_masked (.loadRegs x) ⟨"LD_Vx___I", 0xF0FF#16, 0xF065#16⟩ (by decide) rfl ((formXB_and_F0FF ..).trans (by decide))

end Sys2Proof.Laws
end

