-- ==== Sys2Proof/Tests/Slice0.lean ====
section
/-! SUPPORT. Tests of single steps against spec/95_test_vectors.md, words written out from spec/30_encoding.md R84, and
the witnesses that the hypotheses of the obligations can be met. -/

namespace Sys2Proof.Tests

open Sys2Proof Sys2Proof.Machine

/-! ### Helpers -/

/-- The reset state with some registers set and a word at PC. -/
def start (regs : List (RegIdx × Byte)) (w : Word) : State :=
  placeWord (regs.foldl (fun s p => setV s p.1 p.2) State.reset) w

/-- The quirks of the state, changed. -/
def withQuirks (f : Quirks → Quirks) (s : State) : State := { s with cfg := { s.cfg with quirks := f s.cfg.quirks } }

/-- Every quirk false. -/
def quirksOff : Quirks → Quirks := fun _ => ⟨false, false, false, false, false, false⟩

/-- Every quirk true. -/
def quirksOn : Quirks → Quirks := fun _ => ⟨true, true, true, true, true, true⟩

/-- KEY_SCAN_LAST = 0xF. -/
def scanToF (s : State) : State := { s with cfg := { s.cfg with keyScanLast := .keyF } }

/-- A stack of n entries. -/
def deep (n : Nat) (s : State) : State := { s with stack := List.replicate n 0x0202#16 }

/-- The latch set. -/
def latched (s : State) : State := { s with dwLatch := true }

/-- The tick count set. -/
def atCount (n : Nat) (s : State) : State := { s with tickCount := n }

/-- One cycle. -/
def after (s : State) : State := nextOr (step s) s

/-- Does the operation answer a next state? -/
def isNext (o : Host.Outcome State Fault Refusal) : Bool :=
  match o with
  | .next _ => true
  | .fault _ => false
  | .refused _ => false

theorem eq_nextOr (o : Host.Outcome State Fault Refusal) (s : State) (h : isNext o = true) : o = .next (nextOr o s) := by
  cases o <;> first | rfl | cases h

/-- The record that a fault at 0x200 leaves. -/
def recordAt200 (k : FatalKind) (w : Word) : Option FaultRecord := some { kind := k, opcode := w, pc := 0x0202#16 }

/-- The indices of the true entries, counted from k. -/
def litFrom : Nat → List Bool → List Nat
  | _, [] => []
  | k, b :: bs => if b then k :: litFrom (k + 1) bs else litFrom (k + 1) bs

/-- The pixels that are on, by index. -/
def lit (s : State) : List Nat := litFrom 0 s.screen.toList

/-! ### Well-formedness: the one check refuses the two words that are not 0NNN (R76) -/

theorem test_wf_refuses_sys_cls : (Instr.sys 0x0E0#12).wf = false := by decide
theorem test_wf_refuses_sys_ret : (Instr.sys 0x0EE#12).wf = false := by decide
theorem test_wf_accepts_sys_neighbours :
    (Instr.sys 0x0DF#12).wf = true ∧ (Instr.sys 0x0E1#12).wf = true ∧ (Instr.sys 0x0ED#12).wf = true ∧
    (Instr.sys 0x0EF#12).wf = true ∧ (Instr.sys 0x000#12).wf = true ∧ (Instr.sys 0xFFF#12).wf = true := by decide

/-! ### Decoding: one word of each row, written out from the patterns of R84 -/

theorem test_decode_control :
    decode 0b0000000100100011#16 = .ok (.sys 0x123#12) ∧ decode 0b0000000011101110#16 = .ok .ret ∧
    decode 0b0001101010111100#16 = .ok (.jp 0xABC#12) ∧ decode 0b0010001000000100#16 = .ok (.call 0x204#12) ∧
    decode 0b0011101000010001#16 = .ok (.seImm 0xA#4 0x11#8) ∧ decode 0b0100101100010010#16 = .ok (.sneImm 0xB#4 0x12#8) ∧
    decode 0b0101000100100101#16 = .ok (.seReg 0x1#4 0x2#4 0x5#4) ∧
    decode 0b1001001101000111#16 = .ok (.sneReg 0x3#4 0x4#4 0x7#4) ∧
    decode 0b1011001100001111#16 = .ok (.jpV0 0x30F#12) := by decide

theorem test_decode_register :
    decode 0b0110101001010101#16 = .ok (.ldImm 0xA#4 0x55#8) ∧ decode 0b0111111000000001#16 = .ok (.addImm 0xE#4 0x01#8) ∧
    decode 0b1000000100100000#16 = .ok (.ldReg 0x1#4 0x2#4) ∧ decode 0b1000000100100001#16 = .ok (.orReg 0x1#4 0x2#4) ∧
    decode 0b1000000100100010#16 = .ok (.andReg 0x1#4 0x2#4) ∧ decode 0b1000000100100011#16 = .ok (.xorReg 0x1#4 0x2#4) ∧
    decode 0b1000000100100100#16 = .ok (.addReg 0x1#4 0x2#4) ∧ decode 0b1000000100100101#16 = .ok (.subReg 0x1#4 0x2#4) ∧
    decode 0b1000000100100110#16 = .ok (.shrReg 0x1#4 0x2#4) ∧ decode 0b1000000100100111#16 = .ok (.subnReg 0x1#4 0x2#4) ∧
    decode 0b1000000100101110#16 = .ok (.shlReg 0x1#4 0x2#4) ∧
    decode 0b1100001110000001#16 = .ok (.rnd 0x3#4 0x81#8) := by decide

theorem test_decode_memory :
    decode 0b1010001011110000#16 = .ok (.ldI 0x2F0#12) ∧ decode 0b1111011100011110#16 = .ok (.addI 0x7#4) ∧
    decode 0b1111011100101001#16 = .ok (.ldFont 0x7#4) ∧ decode 0b1111011100110011#16 = .ok (.ldBcd 0x7#4) ∧
    decode 0b1111011101010101#16 = .ok (.storeRegs 0x7#4) ∧
    decode 0b1111011101100101#16 = .ok (.loadRegs 0x7#4) := by decide

theorem test_decode_display_input_timers :
    decode 0b0000000011100000#16 = .ok .cls ∧ decode 0b1101000100100101#16 = .ok (.drw 0x1#4 0x2#4 0x5#4) ∧
    decode 0b1110001010011110#16 = .ok (.skp 0x2#4) ∧ decode 0b1110001010100001#16 = .ok (.sknp 0x2#4) ∧
    decode 0b1111001100001010#16 = .ok (.ldVxKey 0x3#4) ∧ decode 0b1111010100000111#16 = .ok (.ldVxDt 0x5#4) ∧
    decode 0b1111010100010101#16 = .ok (.ldDtVx 0x5#4) ∧
    decode 0b1111010100011000#16 = .ok (.ldStVx 0x5#4) := by decide

/-- T-UN3, T-UN4, T-RG13: the neighbours of encodings are not those encodings. -/
theorem test_decode_neighbours :
    decode 0x00E1#16 = .ok (.sys 0x0E1#12) ∧ decode 0x00FF#16 = .ok (.sys 0x0FF#12) ∧
    decode 0xE0FF#16 = .error (.unrecognized 0xE0FF#16) ∧ decode 0xE09F#16 = .error (.unrecognized 0xE09F#16) ∧
    decode 0xF000#16 = .error (.unrecognized 0xF000#16) ∧ decode 0xF056#16 = .error (.unrecognized 0xF056#16) ∧
    decode 0x801F#16 = .error (.unrecognized 0x801F#16) ∧ decode 0x808D#16 = .error (.unrecognized 0x808D#16) := by decide

/-- R54: the high byte comes first. -/
theorem test_bytes_high_first :
    decodeBytes [0x12#8, 0x34#8, 0x56#8] = .ok (.jp 0x234#12, [0x56#8]) ∧ encodeBytes (.jp 0x234#12) = [0x12#8, 0x34#8] ∧
    decodeBytes [0x12#8] = .error .truncated := by decide

theorem test_table_word : decodeTableWord 16 0x6A55 = some (.ldImm 0xA#4 0x55#8) ∧ decodeTableWord 16 0x8018 = none := by
  decide

theorem test_withFetchWord_runs : getV (after (State.withFetchWord State.reset 16 0x6A55)) 0xA#4 = 0x55#8 := by decide

/-! ### Control flow -/

/-- T-CF1. -/
theorem test_jp : (after (start [] 0x1ABC#16)).pc = 0x0ABC#16 ∧ (after (start [] 0x1ABC#16)).tickCount = 1 := by decide

/-- T-CF3: a call pushes the address after it. -/
theorem test_call : (after (start [] 0x2204#16)).pc = 0x0204#16 ∧ (after (start [] 0x2204#16)).stack = [0x0202#16] := by
  decide

/-- T-CF6: the 17th call overflows, and takes no timer step. -/
theorem test_call_overflow :
    (after (atCount 6 (deep 16 (start [] 0x2200#16)))).fault = recordAt200 .stackOverflow 0x2200#16 ∧
    (after (atCount 6 (deep 16 (start [] 0x2200#16)))).sp = 16 ∧
    (after (atCount 6 (deep 16 (start [] 0x2200#16)))).tickCount = 6 := by decide

/-- T-CF4: RET pops the newest address. -/
theorem test_ret :
    (after { start [] 0x00EE#16 with stack := [0x0202#16, 0x0206#16] }).pc = 0x0206#16 ∧
    (after { start [] 0x00EE#16 with stack := [0x0202#16, 0x0206#16] }).stack = [0x0202#16] := by decide

/-- T-CF5. -/
theorem test_ret_underflow :
    (after (start [] 0x00EE#16)).fault = recordAt200 .stackUnderflow 0x00EE#16 ∧
    (after (start [] 0x00EE#16)).tickCount = 0 := by decide

/-- S4, T-CF8. -/
theorem test_seImm :
    (after (start [(0x0#4, 0x11#8)] 0x3011#16)).pc = 0x0204#16 ∧
    (after (start [(0x0#4, 0x11#8)] 0x3012#16)).pc = 0x0202#16 := by decide

/-- T-CF9. -/
theorem test_sneImm :
    (after (start [(0x0#4, 0x11#8)] 0x4011#16)).pc = 0x0202#16 ∧
    (after (start [(0x0#4, 0x11#8)] 0x4012#16)).pc = 0x0204#16 := by decide

/-- T-CF10, T-CF11: the low nibble is ignored. -/
theorem test_seReg :
    (after (start [(0x1#4, 0x07#8), (0x2#4, 0x07#8)] 0x5125#16)).pc = 0x0204#16 ∧
    (after (start [(0x1#4, 0x07#8), (0x2#4, 0x08#8)] 0x5120#16)).pc = 0x0202#16 := by decide

/-- T-CF12, T-CF13. -/
theorem test_sneReg :
    (after (start [(0x1#4, 0x07#8), (0x2#4, 0x08#8)] 0x9120#16)).pc = 0x0204#16 ∧
    (after (start [] 0x9110#16)).pc = 0x0202#16 := by decide

/-- T-CF14, T-CF15. -/
theorem test_jpV0 :
    (after (start [(0x0#4, 0x02#8), (0x3#4, 0x10#8)] 0xB300#16)).pc = 0x0302#16 ∧
    (after (withQuirks quirksOn (start [(0x0#4, 0x02#8), (0x3#4, 0x10#8)] 0xB300#16))).pc = 0x0310#16 := by decide

/-- T-CF16: the sum is not reduced to 12 bits. -/
theorem test_jpV0_beyond_memory : (after (start [(0x0#4, 0xFF#8)] 0xBFFF#16)).pc = 0x10FE#16 := by decide

/-- T-CF18: the fetch wraps from 0xFFF to 0x000. -/
theorem test_fetch_wraps :
    (after (memWriteBytes { start [] 0x0000#16 with pc := 0x0FFF#16 } 0x0FFF#16 [0x12#8, 0x34#8])).pc = 0x0234#16 := by
  decide

/-! ### Register operations -/

/-- S5. -/
theorem test_ldImm : getV (after (start [] 0x60AA#16)) 0x0#4 = 0xAA#8 := by decide

/-- T-RG1, T-RG2. -/
theorem test_addImm :
    getV (after (start [(0xF#4, 0x55#8), (0x0#4, 0xFF#8)] 0x7001#16)) 0x0#4 = 0x00#8 ∧
    getV (after (start [(0xF#4, 0x55#8), (0x0#4, 0xFF#8)] 0x7001#16)) 0xF#4 = 0x55#8 ∧
    getV (after (start [(0xF#4, 0xFF#8)] 0x7F01#16)) 0xF#4 = 0x00#8 := by decide

/-- T-RG3. -/
theorem test_ldReg :
    getV (after (start [(0x1#4, 0x33#8)] 0x8010#16)) 0x0#4 = 0x33#8 ∧
    getV (after (start [(0x1#4, 0x33#8)] 0x8010#16)) 0x1#4 = 0x33#8 := by decide

/-- T-RG4. -/
theorem test_orReg :
    getV (after (start [(0x0#4, 0x0F#8), (0x1#4, 0xF0#8), (0xF#4, 0x55#8)] 0x8011#16)) 0x0#4 = 0xFF#8 ∧
    getV (after (start [(0x0#4, 0x0F#8), (0x1#4, 0xF0#8), (0xF#4, 0x55#8)] 0x8011#16)) 0xF#4 = 0x00#8 ∧
    getV (after (withQuirks quirksOff (start [(0xF#4, 0x55#8)] 0x8011#16))) 0xF#4 = 0x55#8 := by decide

/-- T-RG5: with X = F the reset of VF comes last. -/
theorem test_orReg_vf :
    getV (after (start [(0xF#4, 0x0F#8), (0x1#4, 0xF0#8)] 0x8F11#16)) 0xF#4 = 0x00#8 ∧
    getV (after (withQuirks quirksOff (start [(0xF#4, 0x0F#8), (0x1#4, 0xF0#8)] 0x8F11#16))) 0xF#4 = 0xFF#8 := by decide

/-- T-RG6. -/
theorem test_andReg : getV (after (start [(0x0#4, 0x3C#8), (0x1#4, 0x0F#8)] 0x8012#16)) 0x0#4 = 0x0C#8 := by decide

/-- T-RG7. -/
theorem test_xorReg :
    getV (after (start [(0x0#4, 0xFF#8), (0x1#4, 0x0F#8)] 0x8013#16)) 0x0#4 = 0xF0#8 ∧
    getV (after (start [(0x0#4, 0x55#8)] 0x8003#16)) 0x0#4 = 0x00#8 := by decide

/-- T-RG8 (a), (b). -/
theorem test_addReg :
    getV (after (start [(0x0#4, 0xFF#8), (0x1#4, 0x01#8)] 0x8014#16)) 0x0#4 = 0x00#8 ∧
    getV (after (start [(0x0#4, 0xFF#8), (0x1#4, 0x01#8)] 0x8014#16)) 0xF#4 = 0x01#8 ∧
    getV (after (start [(0x0#4, 0x80#8), (0x1#4, 0x7F#8)] 0x8014#16)) 0xF#4 = 0x00#8 := by decide

/-- T-RG8 (c), (d), (f): VF as the destination and as a source. -/
theorem test_addReg_vf :
    getV (after (start [(0xF#4, 0xFF#8), (0x1#4, 0x01#8)] 0x8F14#16)) 0xF#4 = 0x01#8 ∧
    getV (after (start [(0xF#4, 0x01#8), (0x0#4, 0x02#8)] 0x80F4#16)) 0x0#4 = 0x03#8 ∧
    getV (after (start [(0xF#4, 0xFF#8)] 0x8FF4#16)) 0xF#4 = 0x01#8 := by decide

/-- T-RG9 (a), (d). -/
theorem test_subReg :
    getV (after (start [(0x0#4, 0x07#8), (0x1#4, 0x07#8)] 0x8015#16)) 0xF#4 = 0x01#8 ∧
    getV (after (start [(0x0#4, 0x00#8), (0x1#4, 0x01#8)] 0x8015#16)) 0x0#4 = 0xFF#8 ∧
    getV (after (start [(0x0#4, 0x00#8), (0x1#4, 0x01#8)] 0x8015#16)) 0xF#4 = 0x00#8 := by decide

/-- T-RG9 (b), (c). -/
theorem test_subReg_vf :
    getV (after (start [(0xF#4, 0x05#8), (0x1#4, 0x06#8)] 0x8F15#16)) 0xF#4 = 0x00#8 ∧
    getV (after (start [(0xF#4, 0x05#8)] 0x8FF5#16)) 0xF#4 = 0x01#8 := by decide

/-- T-RG10 (a), (b), (d). -/
theorem test_subnReg :
    getV (after (start [(0x0#4, 0x05#8), (0x1#4, 0x06#8)] 0x8017#16)) 0x0#4 = 0x01#8 ∧
    getV (after (start [(0x0#4, 0x06#8), (0x1#4, 0x05#8)] 0x8017#16)) 0x0#4 = 0xFF#8 ∧
    getV (after (start [(0x0#4, 0x06#8), (0x1#4, 0x05#8)] 0x8017#16)) 0xF#4 = 0x00#8 ∧
    getV (after (start [(0x0#4, 0x07#8), (0x1#4, 0x07#8)] 0x8017#16)) 0xF#4 = 0x01#8 := by decide

/-- T-RG11 (a), (b): the source is V[Y], or V[X] under quirk shifting. -/
theorem test_shrReg :
    getV (after (start [(0x1#4, 0x05#8)] 0x8016#16)) 0x0#4 = 0x02#8 ∧
    getV (after (start [(0x1#4, 0x05#8)] 0x8016#16)) 0xF#4 = 0x01#8 ∧
    getV (after (withQuirks quirksOn (start [(0x0#4, 0x04#8), (0x1#4, 0x05#8)] 0x8016#16))) 0x0#4 = 0x02#8 ∧
    getV (after (withQuirks quirksOn (start [(0x0#4, 0x04#8), (0x1#4, 0x05#8)] 0x8016#16))) 0xF#4 = 0x00#8 := by decide

/-- T-RG11 (d), (e): the bit shifted out, not the result, stays in VF. -/
theorem test_shrReg_vf :
    getV (after (start [(0xF#4, 0x02#8)] 0x8FF6#16)) 0xF#4 = 0x00#8 ∧
    getV (after (start [(0xF#4, 0x81#8)] 0x80F6#16)) 0x0#4 = 0x40#8 := by decide

/-- T-RG12 (a), (e). -/
theorem test_shlReg :
    getV (after (start [(0x1#4, 0x81#8)] 0x801E#16)) 0x0#4 = 0x02#8 ∧
    getV (after (start [(0x1#4, 0x81#8)] 0x801E#16)) 0xF#4 = 0x01#8 ∧
    getV (after (withQuirks quirksOn (start [(0x0#4, 0x01#8), (0x1#4, 0xFF#8)] 0x801E#16))) 0xF#4 = 0x00#8 := by decide

/-- T-RG12 (b), (c). -/
theorem test_shlReg_vf :
    getV (after (start [(0xF#4, 0x40#8)] 0x8FFE#16)) 0xF#4 = 0x00#8 ∧
    getV (after (start [(0xF#4, 0x80#8)] 0x8FFE#16)) 0xF#4 = 0x01#8 := by decide

/-- T-RG13: an unrecognized word, with no timer step. -/
theorem test_unrecognized :
    (after (start [] 0x8018#16)).fault = recordAt200 .unrecognizedOpcode 0x8018#16 ∧
    (after (start [] 0x8018#16)).tickCount = 0 ∧ (after (start [] 0x8018#16)).pc = 0x0202#16 := by decide

/-! ### Memory operations -/

/-- T-MM1. -/
theorem test_ldI : (after (start [] 0xA2F0#16)).i = 0x02F0#16 := by decide

/-- T-MM2, T-MM4: I is kept in 16 bits and VF is not written. -/
theorem test_addI :
    (after { start [(0x0#4, 0xFF#8)] 0xF01E#16 with i := 0x0FFF#16 }).i = 0x10FE#16 ∧
    getV (after { start [(0x0#4, 0x01#8)] 0xF01E#16 with i := 0x0FFF#16 }) 0xF#4 = 0x00#8 := by decide

/-- T-MM5 (b), (c). -/
theorem test_ldFont :
    (after (start [(0x0#4, 0x1A#8)] 0xF029#16)).i = 0x0032#16 ∧
    (after (start [(0x0#4, 0x0F#8)] 0xF029#16)).i = 0x004B#16 := by decide

/-- T-MM6, T-MM7: the digits, and the wrap at the top of memory. -/
theorem test_ldBcd :
    memRead (after { start [(0x0#4, 0xFE#8)] 0xF033#16 with i := 0x0300#16 }) 0x0300#16 = 0x02#8 ∧
    memRead (after { start [(0x0#4, 0xFE#8)] 0xF033#16 with i := 0x0300#16 }) 0x0301#16 = 0x05#8 ∧
    memRead (after { start [(0x0#4, 0xFE#8)] 0xF033#16 with i := 0x0300#16 }) 0x0302#16 = 0x04#8 ∧
    memRead (after { start [(0x0#4, 0x7B#8)] 0xF033#16 with i := 0x0FFE#16 }) 0x0000#16 = 0x03#8 := by decide

/-- T-MM8 (c), under both values of quirk memory. -/
theorem test_storeRegs :
    memRead (after { start [(0x0#4, 0x0A#8), (0x1#4, 0x0B#8), (0x2#4, 0x0C#8)] 0xF255#16 with i := 0x0FFE#16 }) 0x0FFF#16 = 0x0B#8 ∧
    memRead (after { start [(0x0#4, 0x0A#8), (0x1#4, 0x0B#8), (0x2#4, 0x0C#8)] 0xF255#16 with i := 0x0FFE#16 }) 0x0000#16 = 0x0C#8 ∧
    (after { start [] 0xF255#16 with i := 0x0FFE#16 }).i = 0x1001#16 ∧
    (after (withQuirks quirksOff { start [] 0xF255#16 with i := 0x0FFE#16 })).i = 0x0FFE#16 := by decide

/-- T-MM10: the first font bytes. -/
theorem test_loadRegs :
    getV (after (start [] 0xFF65#16)) 0x0#4 = 0xF0#8 ∧ getV (after (start [] 0xFF65#16)) 0x5#4 = 0x20#8 ∧
    getV (after (start [] 0xFF65#16)) 0xF#4 = 0xF0#8 ∧ (after (start [] 0xFF65#16)).i = 0x0010#16 ∧
    (after (withQuirks quirksOff (start [] 0xFF65#16))).i = 0x0000#16 := by decide

/-! ### Display -/

/-- S1: CLS. -/
theorem test_cls : lit (after (setScreen (start [] 0x00E0#16) (Vector.replicate 2048 true))) = [] := by decide +kernel

/-- T-DS4: clipping at the right edge. -/
theorem test_drw_clipped :
    lit (after (start [(0x1#4, 0x3E#8), (0x2#4, 0x02#8)] 0xD125#16)) = [190, 191, 254, 318, 382, 446, 447] ∧
    getV (after (start [(0x1#4, 0x3E#8), (0x2#4, 0x02#8)] 0xD125#16)) 0xF#4 = 0x00#8 ∧
    (after (start [(0x1#4, 0x3E#8), (0x2#4, 0x02#8)] 0xD125#16)).dwLatch = true := by decide +kernel

/-- T-DS5: wrapping at the right edge. -/
theorem test_drw_wrapped :
    lit (after (withQuirks quirksOff (start [(0x1#4, 0x3E#8), (0x2#4, 0x02#8)] 0xD125#16))) =
      [128, 129, 190, 191, 193, 254, 257, 318, 321, 382, 384, 385, 446, 447] := by decide +kernel

/-- T-DS6, T-DS7: the bottom edge. -/
theorem test_drw_bottom :
    lit (after (start [(0x1#4, 0x1E#8)] 0xD015#16)) = [1920, 1921, 1922, 1923, 1984, 1987] ∧
    (after (withQuirks quirksOff (start [(0x1#4, 0x1E#8)] 0xD015#16))).screen[3] = true ∧
    (after (withQuirks quirksOff (start [(0x1#4, 0x1E#8)] 0xD015#16))).screen[131] = true := by decide +kernel

/-- T-DS8, T-DS10: the start is taken modulo the screen, and VF is read as Y before it is written. -/
theorem test_drw_start :
    lit (after (start [(0x0#4, 0x46#8), (0x1#4, 0x28#8)] 0xD011#16)) = [518, 519, 520, 521] ∧
    lit (after (start [(0xF#4, 0x05#8)] 0xD0F1#16)) = [320, 321, 322, 323] := by decide +kernel

/-- T-DS2: the second draw erases and collides. -/
theorem test_drw_collides :
    lit (after (withQuirks quirksOff { after (start [] 0xD005#16) with pc := 0x0200#16 })) = [] ∧
    getV (after (withQuirks quirksOff { after (start [] 0xD005#16) with pc := 0x0200#16 })) 0xF#4 = 0x01#8 := by
  decide +kernel

/-- T-DS12, T-DS13: the latch makes DXYN retry, and the tick clears it. -/
theorem test_drw_waits :
    (after (latched (start [] 0xD005#16))).pc = 0x0200#16 ∧ (after (latched (start [] 0xD005#16))).dwLatch = true ∧
    (after (atCount 9 (latched (start [] 0xD005#16)))).dwLatch = false := by decide

/-! ### Input -/

/-- T-IN1, T-IN3, T-IN4. -/
theorem test_skp :
    (after (setKey (start [(0x2#4, 0x15#8)] 0xE29E#16) 0x5#4 true)).pc = 0x0204#16 ∧
    (after (start [(0x2#4, 0x05#8)] 0xE29E#16)).pc = 0x0202#16 ∧
    (after (setKey (start [(0x2#4, 0x0F#8)] 0xE29E#16) 0xF#4 true)).pc = 0x0204#16 := by decide

/-- T-IN2. -/
theorem test_sknp :
    (after (start [(0x2#4, 0x05#8)] 0xE2A1#16)).pc = 0x0204#16 ∧
    (after (setKey (start [(0x2#4, 0x05#8)] 0xE2A1#16) 0x5#4 true)).pc = 0x0202#16 := by decide

/-- T-IN5, T-IN6, T-IN8. -/
theorem test_ldVxKey :
    getV (after (setKey (setKey (start [] 0xF50A#16) 0x9#4 true) 0x3#4 true)) 0x5#4 = 0x03#8 ∧
    (after (start [] 0xF50A#16)).blocked = true ∧ (after (start [] 0xF50A#16)).blockedReg = 0x5#4 ∧
    getV (after (setKey (scanToF (start [] 0xF50A#16)) 0xF#4 true)) 0x5#4 = 0x0F#8 := by decide

/-- T-IN6, T-IN7: a Blocked cycle leaves PC alone and takes the key; key F is not scanned by default. -/
theorem test_blocked_cycle :
    getV (after (setKey (block (start [] 0x1ABC#16) 0x5#4) 0x4#4 true)) 0x5#4 = 0x04#8 ∧
    (after (setKey (block (start [] 0x1ABC#16) 0x5#4) 0x4#4 true)).blocked = false ∧
    (after (setKey (block (start [] 0x1ABC#16) 0x5#4) 0x4#4 true)).pc = 0x0200#16 ∧
    (after (setKey (block (start [] 0x1ABC#16) 0x5#4) 0xF#4 true)).blocked = true := by decide

/-! ### Timers, random byte, legacy call -/

/-- T-TM1. -/
theorem test_ldVxDt : getV (after { start [] 0xFB07#16 with dt := 0x3B#8 }) 0xB#4 = 0x3B#8 := by decide

/-- T-TM1: DT written in the cycle of a tick is ticked at once. -/
theorem test_ldDtVx :
    (after (atCount 9 (start [(0xA#4, 0x3C#8)] 0xFA15#16))).dt = 0x3B#8 ∧
    (after (start [(0xA#4, 0x3C#8)] 0xFA15#16)).dt = 0x3C#8 := by decide

/-- T-TM2, T-TM4. -/
theorem test_ldStVx :
    (after (start [(0x1#4, 0x02#8)] 0xF118#16)).st = 0x02#8 ∧ tone (after (start [(0x1#4, 0x02#8)] 0xF118#16)) = true ∧
    tone (after { start [] 0xF018#16 with st := 0x02#8 }) = false := by decide

/-- T-TM3: the timers stop at zero. -/
theorem test_tick_floor :
    (after (atCount 9 (start [] 0x1200#16))).dt = 0x00#8 ∧ (after (atCount 9 (start [] 0x1200#16))).st = 0x00#8 ∧
    (after (atCount 9 (start [] 0x1200#16))).tickCount = 0 := by decide

/-- T-TM6. -/
theorem test_tickN : tickN { defaultConfig with ips := 1200 } = 20 ∧ tickN { defaultConfig with ips := 119 } = 1 := by
  decide

/-- T-RN1, T-RN3: what CXNN does with a draw. -/
theorem test_rnd :
    getV (rndResult 0x0#4 0x0F#8 0xA7#8 State.reset) 0x0#4 = 0x07#8 ∧
    getV (rndResult 0x0#4 0xFF#8 0x5A#8 State.reset) 0x0#4 = 0x5A#8 := by decide

/-- T-RN2: NN = 0 masks any draw. -/
theorem test_rnd_masked : getV (after (start [(0x0#4, 0x55#8)] 0xC000#16)) 0x0#4 = 0x00#8 := by
  rw [show after (start [(0x0#4, 0x55#8)] 0xC000#16) =
      timerStep (countDraw (setV (advancePc (start [(0x0#4, 0x55#8)] 0xC000#16)) 0x0#4
        (rndByte (advancePc (start [(0x0#4, 0x55#8)] 0xC000#16)) &&& 0x00#8))) from rfl, BitVec.and_zero]
  decide

/-- T-UN1, T-UN2. -/
theorem test_sys :
    (after (start [] 0x0123#16)).fault = recordAt200 .unimplementedLegacy 0x0123#16 ∧
    (after State.reset).fault = recordAt200 .unimplementedLegacy 0x0000#16 := by decide

/-! ### Construction, reset, commands -/

/-- The default arguments with an empty ROM. -/
def defaultSetup : Setup :=
  { rom := [], font := Vector.ofFn fun k => unlistedByte k.val, quirks := defaultQuirks, ips := 600, stackCap := 16,
    keyScanLast := .keyE, initV := Vector.replicate 16 0x00#8, initMem := [] }

/-- T-RS4: construction with the defaults gives the reset state's memory, with the font at its start. -/
theorem test_construct_default :
    isNext (construct defaultSetup) = true ∧ defaultSetup.builtState.memory = State.reset.memory ∧
    defaultSetup.config = State.reset.cfg ∧ memRead defaultSetup.builtState 0x0000#16 = 0xF0#8 ∧
    memRead defaultSetup.builtState 0x0001#16 = 0x90#8 := by decide +kernel

/-- R230: the ROM is loaded from 0x200 up. -/
theorem test_construct_rom :
    fetchWord (nextOr (construct { defaultSetup with rom := [0x12#8, 0x34#8] }) State.reset) = 0x1234#16 := by
  decide +kernel

/-- T-TM6, T-RS3: the refused constructions. -/
theorem test_construct_refused :
    isNext (construct { defaultSetup with ips := 59 }) = false ∧ isNext (construct { defaultSetup with ips := 60 }) = true ∧
    isNext (construct { defaultSetup with stackCap := 11 }) = false ∧
    isNext (construct { defaultSetup with stackCap := 12 }) = true := by decide +kernel

/-- T-RS1: reset keeps V0..VF and the keys. -/
theorem test_hostReset :
    getV (hostReset (setKey (start [(0x1#4, 0x0F#8)] 0x1ABC#16) 0x3#4 true)) 0x1#4 = 0x0F#8 ∧
    keyDown (hostReset (setKey (start [] 0x1ABC#16) 0x3#4 true)) 0x3#4 = true ∧
    (hostReset { start [] 0x1ABC#16 with pc := 0x0ABC#16 }).pc = 0x0200#16 := by decide

/-- T-UN5. -/
theorem test_faulted_commands :
    isNext (hostStep .cycle (after State.reset)) = false ∧ isNext (hostStep .reset (after State.reset)) = false ∧
    isNext (hostStep (.keyDown 3) (after State.reset)) = true ∧
    isNext (hostStep (.keyDown 16) State.reset) = false := by decide

/-- S2: two cycles, a call and its return. -/
theorem test_call_return :
    (nextOr (cycles 2 (memWriteBytes (start [] 0x2204#16) 0x0204#16 [0x00#8, 0xEE#8])) State.reset).pc = 0x0202#16 := by
  decide

/-- R97: a frame at 60 Hz is ten cycles at IPS 600. -/
theorem test_one_frame : (nextOr (cycleOneFrame 60 (start [] 0x1200#16)) State.reset).tickCount = 0 ∧
    isNext (cycleOneFrame 0 (start [] 0x1200#16)) = false := by decide


/-! ### Witnesses: states and operands that meet the hypotheses of the obligations, at the boundaries of their ranges -/

theorem witness_DecodeOfEncode :
    (Instr.sys 0x0DF#12).wf = true ∧ (Instr.sys 0x0E1#12).wf = true ∧ (Instr.loadRegs 0xF#4).wf = true := by decide

theorem witness_EncodeOfDecode :
    decode 0x0000#16 = .ok (.sys 0x000#12) ∧ decode 0x0FFF#16 = .ok (.sys 0xFFF#12) ∧
    decode 0xFF65#16 = .ok (.loadRegs 0xF#4) := by decide

/-- The ends of the three lists, and the words beside them. -/
theorem witness_UnrecognizedWords :
    decode 0x8008#16 = .error (.unrecognized 0x8008#16) ∧ decode 0x8FFF#16 = .error (.unrecognized 0x8FFF#16) ∧
    decode 0xE000#16 = .error (.unrecognized 0xE000#16) ∧ decode 0xFFFF#16 = .error (.unrecognized 0xFFFF#16) ∧
    decode 0x8FFE#16 ≠ .error (.unrecognized 0x8FFE#16) ∧ decode 0xEF9E#16 ≠ .error (.unrecognized 0xEF9E#16) ∧
    decode 0xF007#16 ≠ .error (.unrecognized 0xF007#16) := by decide

theorem witness_FamilyZeroDecodes :
    fieldOp 0x0FFF#16 = 0x0#4 ∧ fieldOp 0x0000#16 = 0x0#4 ∧ fieldOp 0x00E1#16 = 0x0#4 ∧
    (0x00E1#16 : Word) ≠ 0x00E0#16 ∧ (0x00E1#16 : Word) ≠ 0x00EE#16 := by decide

/-- Two different rows cover 0x00E0, and none covers 0x8008. -/
theorem witness_OpcodeRowsAreDisjoint :
    (⟨"SYS_addr", 0xF000#16, 0x0000#16⟩ : OpcodeRow) ∈ opcodeTable ∧
    (⟨"CLS", 0xFFFF#16, 0x00E0#16⟩ : OpcodeRow) ∈ opcodeTable ∧
    (⟨"SYS_addr", 0xF000#16, 0x0000#16⟩ : OpcodeRow).covers 0x00E0#16 = true ∧
    (⟨"CLS", 0xFFFF#16, 0x00E0#16⟩ : OpcodeRow).covers 0x00E0#16 = true ∧
    ∀ r ∈ opcodeTable, r.covers 0x8008#16 = false := by decide

/-- The fetch at the last address takes its second byte from address 0. -/
theorem witness_FetchIsBigEndianAndWraps :
    fetchWord (memWriteBytes { State.reset with pc := 0x0FFF#16 } 0x0FFF#16 [0x12#8, 0x34#8]) = 0x1234#16 := by decide

theorem witness_RunningCycleExecutesFetched :
    running (start [] 0x6A55#16) ∧
    decode (wordOfBytes (Memory.read (start [] 0x6A55#16).memory 0x200) (Memory.read (start [] 0x6A55#16).memory 0x201)) =
      .ok (.ldImm 0xA#4 0x55#8) := ⟨⟨rfl, rfl⟩, by decide⟩

theorem witness_BlockedCycleScansKeys :
    (block State.reset 0x5#4).fault = none ∧ (block State.reset 0x5#4).blocked = true ∧ noKey (block State.reset 0x5#4) ∧
    noKey (setKey (block State.reset 0x5#4) 0xF#4 true) ∧
    firstKey (setKey (block State.reset 0x5#4) 0x0#4 true) 0x0#4 ∧
    firstKey (setKey (block State.reset 0x5#4) 0xE#4 true) 0xE#4 ∧
    firstKey (setKey (scanToF (block State.reset 0x5#4)) 0xF#4 true) 0xF#4 := by
  refine ⟨rfl, rfl, ?_⟩
  unfold noKey firstKey
  decide

theorem witness_FaultedRefusesCycleAndReset :
    (after (start [] 0x8018#16)).fault ≠ none ∧ State.reset.fault = none := ⟨by decide, rfl⟩

theorem witness_UnrecognizedWordFaults :
    running (start [] 0x8018#16) ∧ fetchWord (start [] 0x8018#16) = 0x8018#16 ∧
    decode 0x8018#16 = .error (.unrecognized 0x8018#16) ∧
    (0x8#4 : Nibble) ∈ [0x8#4, 0x9#4, 0xA#4, 0xB#4, 0xC#4, 0xD#4, 0xF#4] ∧
    (0xF#4 : Nibble) ∈ [0x8#4, 0x9#4, 0xA#4, 0xB#4, 0xC#4, 0xD#4, 0xF#4] := ⟨⟨rfl, rfl⟩, by decide⟩

theorem witness_FatalErrorsArePreciseAndFinal :
    (start [] 0x00EE#16).fault = none ∧ step (start [] 0x00EE#16) = .next (after (start [] 0x00EE#16)) ∧
    (after (start [] 0x00EE#16)).fault = recordAt200 .stackUnderflow 0x00EE#16 ∧
    hostStep (.keyDown 15) (after (start [] 0x00EE#16)) =
      .next (nextOr (hostStep (.keyDown 15) (after (start [] 0x00EE#16))) State.reset) :=
  ⟨rfl, eq_nextOr _ _ (by decide), by decide, eq_nextOr _ _ (by decide)⟩

/-- One state for each kind, and one for none, each at the edge of its condition. -/
theorem witness_FatalKindsHaveTheirCauses :
    (after (start [] 0x8008#16)).fault = recordAt200 .unrecognizedOpcode 0x8008#16 ∧
    (after (deep 16 (start [] 0x2200#16))).fault = recordAt200 .stackOverflow 0x2200#16 ∧
    (after (deep 15 (start [] 0x2200#16))).fault = none ∧
    (after (start [] 0x00EE#16)).fault = recordAt200 .stackUnderflow 0x00EE#16 ∧
    (after (deep 1 (start [] 0x00EE#16))).fault = none ∧
    (after (start [] 0x00EF#16)).fault = recordAt200 .unimplementedLegacy 0x00EF#16 ∧
    step (start [] 0x00EF#16) = .next (after (start [] 0x00EF#16)) := by
  refine ⟨by decide, by decide, by decide, by decide, by decide, by decide, eq_nextOr _ _ (by decide)⟩

theorem witness_RetPopsPcOrUnderflows :
    (deep 1 State.reset).stack = [] ++ [0x0202#16] ∧ (deep 2 State.reset).stack = [0x0202#16] ++ [0x0202#16] ∧
    State.reset.sp = 0 := by decide

theorem witness_CallPushesPcOrOverflows :
    (deep 15 State.reset).sp < (deep 15 State.reset).cfg.stackCap ∧
    (deep 16 State.reset).sp = (deep 16 State.reset).cfg.stackCap := by decide

theorem witness_CallThenRetComesBack :
    (deep 15 State.reset).sp < (deep 15 State.reset).cfg.stackCap ∧
    exec (.call 0x204#12) (deep 15 State.reset) = .next (nextOr (exec (.call 0x204#12) (deep 15 State.reset)) State.reset) :=
  ⟨by decide, eq_nextOr _ _ (by decide)⟩

/-- Both values of quirk vf_reset, and an instruction of the list. -/
theorem witness_BitwiseOpsAndVfReset :
    State.reset.cfg.quirks.vfReset = true ∧ (withQuirks quirksOff State.reset).cfg.quirks.vfReset = false ∧
    (Instr.orReg 0xF#4 0x1#4, getV State.reset 0xF#4 ||| getV State.reset 0x1#4) ∈
      [(Instr.orReg 0xF#4 0x1#4, getV State.reset 0xF#4 ||| getV State.reset 0x1#4)] := ⟨rfl, rfl, by simp⟩

/-- Both values of quirk shifting. -/
theorem witness_ShiftsSetShiftedOutBit :
    (0x05#8 : Byte) = (if (start [(0x1#4, 0x05#8)] 0x8016#16).cfg.quirks.shifting
      then getV (start [(0x1#4, 0x05#8)] 0x8016#16) 0x0#4 else getV (start [(0x1#4, 0x05#8)] 0x8016#16) 0x1#4) ∧
    (withQuirks quirksOn State.reset).cfg.quirks.shifting = true := by decide

theorem witness_VfChangesOnlyInItsWriters :
    exec (.addReg 0x0#4 0x0#4) (start [(0x0#4, 0x80#8)] 0x8004#16) =
      .next (nextOr (exec (.addReg 0x0#4 0x0#4) (start [(0x0#4, 0x80#8)] 0x8004#16)) State.reset) ∧
    getV (nextOr (exec (.addReg 0x0#4 0x0#4) (start [(0x0#4, 0x80#8)] 0x8004#16)) State.reset) 0xF#4 ≠
      getV (start [(0x0#4, 0x80#8)] 0x8004#16) 0xF#4 := ⟨eq_nextOr _ _ (by decide), by decide⟩

/-- An address outside the stored digits, when they wrap at the top of memory, and when they do not. -/
theorem witness_BcdStoresThreeDigits :
    (∀ k < 3, memAddr 0x0001#16 ≠ memAddr (indexAddr { State.reset with i := 0x0FFE#16 } k)) ∧
    (∀ k < 3, memAddr 0x0003#16 ≠ memAddr (indexAddr State.reset k)) := by decide

/-- The first and the last register of the run, an address just past it, and both values of quirk memory. -/
theorem witness_StoreRangeWritesRegisters :
    (0x0#4 : RegIdx).toNat ≤ (0xF#4 : RegIdx).toNat ∧ (0xF#4 : RegIdx).toNat ≤ (0xF#4 : RegIdx).toNat ∧
    (∀ k ≤ (0xF#4 : RegIdx).toNat, memAddr 0x0010#16 ≠ memAddr (indexAddr State.reset k)) ∧
    State.reset.cfg.quirks.memory = true ∧ (withQuirks quirksOff State.reset).cfg.quirks.memory = false := by decide

theorem witness_StoreLoadRoundTrip :
    let s := start [(0x0#4, 0x11#8), (0xF#4, 0x22#8)] 0xFF55#16
    let t := nextOr (exec (.storeRegs 0xF#4) s) s
    let m := setI (setV t 0x0#4 0x00#8) s.i
    exec (.storeRegs 0xF#4) s = .next t ∧ (∀ a : Word, memRead m a = memRead t a) ∧ m.i = s.i ∧
      exec (.loadRegs 0xF#4) m = .next (nextOr (exec (.loadRegs 0xF#4) m) m) :=
  ⟨eq_nextOr _ _ (by decide), fun _ => rfl, rfl, eq_nextOr _ _ (by decide)⟩

theorem witness_StoreIsSeenByNextFetch :
    let s := { start [(0x0#4, 0x12#8), (0x1#4, 0x34#8)] 0xF155#16 with i := 0x0200#16 }
    1 ≤ (0x1#4 : RegIdx).toNat ∧ s.i = s.pc ∧ exec (.storeRegs 0x1#4) s = .next (nextOr (exec (.storeRegs 0x1#4) s) s) :=
  ⟨by decide, rfl, eq_nextOr _ _ (by decide)⟩

theorem witness_CanonicalMemoryIsUnique :
    Memory.wf [(0x200, 0x12#8), (0xFFF, 0x34#8)] = true ∧ Memory.wf [(0, 0x00#8)] = true ∧
    Memory.wf [(0x200, 0x00#8)] = false ∧ Memory.wf [(0x1000, 0x12#8)] = false ∧
    (∀ a < 4096, Memory.read [(0x200, 0x12#8), (0xFFF, 0x34#8)] a = Memory.read [(0x200, 0x12#8), (0xFFF, 0x34#8)] a) :=
  ⟨by decide, by decide, by decide, by decide, fun _ _ => rfl⟩

/-- Glyph 0 at the origin covers pixel (0, 0) and not pixel (1, 1). -/
theorem witness_DrwFlipsCoveredPixels :
    spriteCovers (start [] 0xD005#16) 0x0#4 0x0#4 0x5#4 0 0 ∧ ¬spriteCovers (start [] 0xD000#16) 0x0#4 0x0#4 0x0#4 1 1 ∧
    ¬((start [] 0xD005#16).cfg.quirks.displayWait = true ∧ (start [] 0xD005#16).dwLatch = true) ∧
    ((latched (start [] 0xD005#16)).cfg.quirks.displayWait = true ∧ (latched (start [] 0xD005#16)).dwLatch = true) ∧
    ¬((withQuirks quirksOff (latched (start [] 0xD005#16))).cfg.quirks.displayWait = true ∧
      (withQuirks quirksOff (latched (start [] 0xD005#16))).dwLatch = true) := by
  refine ⟨⟨0, 0, by decide, by decide, by decide, ?_, ?_⟩, ?_, by decide, by decide, by decide⟩
  · unfold landsAt; decide
  · unfold landsAt; decide
  · rintro ⟨r, c, hr, -⟩
    exact absurd hr (by simp)

/-- A covered pixel that is on, and one that is off. -/
theorem witness_DrwFlipsCoveredPixels_collision :
    pixel (setScreen (start [] 0xD005#16) (blankScreen.set 0 true)) 0 0 = true ∧
    pixel (start [] 0xD005#16) 0 0 = false := by decide +kernel

theorem witness_DisplayWaitRetriesUntilTick :
    let s := latched (start [] 0xD005#16)
    running s ∧ s.cfg.quirks.displayWait = true ∧ s.dwLatch = true ∧ decode (fetchWord s) = .ok (.drw 0x0#4 0x0#4 0x5#4) ∧
      s.tickCount + 1 ≠ tickN s.cfg ∧ (atCount 9 s).tickCount + 1 = tickN s.cfg :=
  ⟨⟨rfl, rfl⟩, rfl, rfl, by decide, by decide, by decide⟩

theorem witness_DrawingTwiceRestoresScreen :
    let s := withQuirks quirksOff (start [] 0xD015#16)
    let t := nextOr (exec (.drw 0x0#4 0x1#4 0x5#4) s) s
    s.cfg.quirks.displayWait = false ∧ exec (.drw 0x0#4 0x1#4 0x5#4) s = .next t ∧
      exec (.drw 0x0#4 0x1#4 0x5#4) t = .next (nextOr (exec (.drw 0x0#4 0x1#4 0x5#4) t) t) :=
  ⟨rfl, eq_nextOr _ _ rfl, eq_nextOr _ _ rfl⟩

/-- A value whose high nibble is not zero selects by its low nibble; key F is reached. -/
theorem witness_KeySkipsTestKey :
    (0x5#4 : Key).toNat = (getV (start [(0x2#4, 0x15#8)] 0xE29E#16) 0x2#4).toNat % 16 ∧
    (0xF#4 : Key).toNat = (getV (start [(0x2#4, 0xFF#8)] 0xE29E#16) 0x2#4).toNat % 16 := by decide

theorem witness_KeyWaitStoresOrBlocks :
    noKey State.reset ∧ noKey (setKey State.reset 0xF#4 true) ∧ firstKey (setKey State.reset 0x0#4 true) 0x0#4 ∧
    firstKey (setKey State.reset 0xE#4 true) 0xE#4 ∧ firstKey (setKey (scanToF State.reset) 0xF#4 true) 0xF#4 := by
  unfold noKey firstKey
  decide

theorem witness_TimerStepCountsAndTicks :
    (atCount 9 State.reset).tickCount + 1 = (atCount 9 State.reset).cfg.ips / 60 ∧
    (atCount 8 State.reset).tickCount + 1 ≠ (atCount 8 State.reset).cfg.ips / 60 := by decide

theorem witness_EffectsComeBeforeTimerStep :
    running (atCount 9 (start [] 0xFA15#16)) ∧
    (atCount 9 (start [] 0xFA15#16)).tickCount + 1 = tickN (atCount 9 (start [] 0xFA15#16)).cfg ∧
    decode (fetchWord (atCount 9 (start [] 0xFA15#16))) = .ok (.ldDtVx 0xA#4) ∧
    decode (fetchWord (atCount 9 (start [] 0xF118#16))) = .ok (.ldStVx 0x1#4) ∧
    decode (fetchWord (atCount 9 (start [] 0xD005#16))) = .ok (.drw 0x0#4 0x0#4 0x5#4) :=
  ⟨⟨rfl, rfl⟩, by decide, by decide, by decide, by decide⟩

theorem witness_TimersCountDownOverCycles :
    State.reset.tickCount < tickN State.reset.cfg ∧ (atCount 9 State.reset).tickCount < tickN State.reset.cfg := by decide

/-- A bit outside NN, and NN = 0xFF. -/
theorem witness_RndStoresMaskedDraw : (0x7F#8 : Byte).getLsbD 7 = false ∧ (0x0F#8 : Byte).getLsbD 4 = false := by decide

theorem witness_SysRaisesUnimplementedLegacy :
    (0x0E1#12 : Addr) ≠ 0x0E0#12 ∧ (0x0E1#12 : Addr) ≠ 0x0EE#12 ∧ decode (formA 0x0#4 0x0E0#12) = .ok .cls := by decide

/-- A change of each element by an instruction of its list. -/
theorem witness_OnlyListedInstructionsWriteStores :
    (nextOr (exec (.call 0x204#12) State.reset) State.reset).stack ≠ State.reset.stack ∧
    (nextOr (exec (.storeRegs 0x0#4) (start [(0x0#4, 0x11#8)] 0xF055#16)) State.reset).memory ≠
      (start [(0x0#4, 0x11#8)] 0xF055#16).memory ∧
    (nextOr (exec (.ldI 0x2F0#12) State.reset) State.reset).i ≠ State.reset.i ∧
    (nextOr (exec (.loadRegs 0x0#4) State.reset) State.reset).i ≠ State.reset.i ∧
    exec (.call 0x204#12) State.reset = .next (nextOr (exec (.call 0x204#12) State.reset) State.reset) :=
  ⟨by decide, by decide, by decide, by decide, eq_nextOr _ _ rfl⟩

/-- The screen changes too. -/
theorem witness_OnlyListedInstructionsWriteStores_screen :
    pixel (nextOr (exec (.drw 0x0#4 0x0#4 0x5#4) State.reset) State.reset) 0 0 ≠ pixel State.reset 0 0 := by decide +kernel

theorem witness_OnlyListedInstructionsWriteControl :
    (nextOr (exec (.ldDtVx 0x0#4) (start [(0x0#4, 0x11#8)] 0xF015#16)) State.reset).dt ≠ 0x00#8 ∧
    (nextOr (exec (.ldStVx 0x0#4) (start [(0x0#4, 0x11#8)] 0xF018#16)) State.reset).st ≠ 0x00#8 ∧
    (nextOr (exec (.drw 0x0#4 0x0#4 0x0#4) State.reset) State.reset).dwLatch ≠ State.reset.dwLatch ∧
    (nextOr (exec (.ldVxKey 0x0#4) State.reset) State.reset).blocked ≠ State.reset.blocked ∧
    (nextOr (exec (.jp 0x204#12) State.reset) State.reset).pc ≠ State.reset.pc ∧
    exec (.jp 0x204#12) State.reset = .next (nextOr (exec (.jp 0x204#12) State.reset) State.reset) :=
  ⟨by decide, by decide, by decide, by decide, by decide, eq_nextOr _ _ rfl⟩

theorem witness_KeysAndQuirksAreInputs :
    step (start [] 0x1200#16) = .next (after (start [] 0x1200#16)) ∧
    hostStep (.keyDown 15) State.reset = .next (nextOr (hostStep (.keyDown 15) State.reset) State.reset) :=
  ⟨eq_nextOr _ _ (by decide), eq_nextOr _ _ (by decide)⟩

theorem witness_ResetStateHoldsSpecValues : (0x004F#16 : Word).toNat < 80 ∧ defaultFont[79]? = some 0x80#8 := by decide

/-- The longest ROM, the smallest IPS and STACK_CAP, and addresses at the ends of the font, the ROM and INIT_MEM. -/
theorem witness_ConstructionBuildsState :
    (List.replicate maxRomBytes (0x00#8 : Byte)).length ≤ 3584 ∧ 60 ≤ 60 ∧ 12 ≤ 12 ∧ (0x004F#16 : Word).toNat < 80 ∧
    512 ≤ (0x0200#16 : Word).toNat ∧ (0x0FFF#16 : Word).toNat < 512 + maxRomBytes ∧ 80 ≤ (0x0050#16 : Word).toNat ∧
    ¬(512 ≤ (0x01FF#16 : Word).toNat ∧ (0x01FF#16 : Word).toNat < 512 + maxRomBytes) ∧
    (0x01FF#16 : Word).toNat < (List.replicate 512 (0x00#8 : Byte)).length := by
  rw [List.length_replicate, List.length_replicate]
  decide

theorem witness_ConstructionChecksArguments :
    3584 < (List.replicate 3585 (0x00#8 : Byte)).length ∧ (List.replicate 3584 (0x00#8 : Byte)).length ≤ 3584 ∧
    59 < 60 ∧ 11 < 12 := by
  rw [List.length_replicate, List.length_replicate]
  decide

theorem witness_HostResetReinitializes :
    (start [] 0x1200#16).fault = none ∧ (block State.reset 0x5#4).fault = none := ⟨rfl, rfl⟩

theorem witness_KeyCommandsSetOneKey :
    0 < 16 ∧ 15 < 16 ∧ 16 ≤ 16 ∧ (0x0#4 : Key).toNat ≠ 15 := by decide

/-- Cycles that run on, and cycles that end in a fault. -/
theorem witness_CyclesRunInSequence :
    (start [] 0x1200#16).fault = none ∧
    cycles 3 (start [] 0x1200#16) = .next (nextOr (cycles 3 (start [] 0x1200#16)) State.reset) ∧
    (nextOr (cycles 3 (start [] 0x1200#16)) State.reset).fault = none ∧
    cycles 3 (start [] 0x00EE#16) = .next (nextOr (cycles 3 (start [] 0x00EE#16)) State.reset) ∧
    (nextOr (cycles 3 (start [] 0x00EE#16)) State.reset).fault ≠ none :=
  ⟨rfl, eq_nextOr _ _ (by decide), by decide, eq_nextOr _ _ (by decide), by decide⟩

/-- A legal state at the edges of its ranges: the stack full, the last cycle of a tick, the latch set. -/
theorem witness_EveryCycleKeepsLegal :
    Inv (atCount 9 (latched (deep 16 (start [] 0x1200#16)))) ∧
    step (atCount 9 (latched (deep 16 (start [] 0x1200#16)))) =
      .next (after (atCount 9 (latched (deep 16 (start [] 0x1200#16))))) :=
  ⟨⟨by decide, ⟨by decide, by decide⟩, by decide, by decide, by decide, by intro r h; cases h⟩, eq_nextOr _ _ (by decide)⟩

theorem witness_EveryReachableStateIsLegal :
    construct defaultSetup = .next defaultSetup.builtState ∧
    Reaches defaultSetup.builtState (setKey defaultSetup.builtState 0x3#4 true) :=
  ⟨rfl, .step _ _ _ (.keyDown 3) (.refl _) rfl⟩

end Sys2Proof.Tests
end

section
/-! The invariant of spec/10_state.md R39: every update of a cycle keeps it, so it holds of every reachable state. -/

namespace Sys2Proof.Machine

variable {s t : State}

/-! ### The invariant under each update -/

/-- TICK_N is at least 1, because IPS is at least 60. -/
theorem tickN_pos {c : Config} (h : configLegal c) : 0 < tickN c := Nat.div_pos h.1 (by decide)

theorem inv_memWriteBytes (a : Word) (vs : List Byte) (h : Inv s) : Inv (memWriteBytes s a vs) := by
  rw [memWriteBytes_eq]
  exact { h with memory_wf := wf_memWriteBytes vs s a h.memory_wf }

theorem inv_setI (a : Word) (h : Inv s) : Inv (setI s a) := { h with }

theorem inv_setKey (k : Key) (d : Bool) (h : Inv s) : Inv (setKey s k d) := { h with }

/-- A record of a state that is not Blocked holds its PC. -/
theorem inv_raiseFatal (kind : FatalKind) (w : Word) (h : Inv s) (hb : s.blocked = false) :
    Inv (raiseFatal kind w s) :=
  { h with fault_matches := by rintro r ⟨⟩; exact ⟨rfl, hb⟩ }

/-- PC can move while there is no record to agree with it. -/
theorem inv_setPc (a : Word) (h : Inv s) (hf : s.fault = none) : Inv (setPc s a) :=
  { h with fault_matches := by simp [hf] }

theorem inv_push (a : Word) (h : Inv s) (hroom : s.sp < s.cfg.stackCap) : Inv (push s a) :=
  { h with sp_le_cap := by simpa [State.sp] using hroom }

theorem inv_dropTop (h : Inv s) : Inv (dropTop s) :=
  { h with
    sp_le_cap := calc
      (dropTop s).sp = s.sp - 1 := List.length_dropLast
      _ ≤ s.cfg.stackCap := (Nat.sub_le _ _).trans h.sp_le_cap }

theorem inv_block (x : RegIdx) (h : Inv s) (hf : s.fault = none) : Inv (block s x) :=
  { h with fault_matches := by simp [hf] }

/-- The only update that sets the latch sets it under quirk display_wait (spec/10_state.md R35). -/
theorem inv_drawSprite (x y : RegIdx) (n : Nibble) (h : Inv s) : Inv (drawSprite s x y n) := by
  rw [drawSprite_eq]
  refine { h with latch_needs_quirk := fun hl => ?_ }
  rcases Bool.or_eq_true_iff.mp hl with hq | hl
  · exact hq
  · exact h.latch_needs_quirk hl

theorem inv_blockedScan (h : Inv s) (hf : s.fault = none) : Inv (blockedScan s) := by
  rw [blockedScan_eq]
  exact { h with fault_matches := by simp [hf] }

/-- The tick count wraps at TICK_N, and a tick clears the latch (spec/46_timers.md R194). -/
theorem inv_timerStep (h : Inv s) : Inv (timerStep s) := by
  by_cases hn : s.tickCount + 1 = tickN s.cfg
  · rw [timerStep_tick s hn]
    exact { h with tick_lt := tickN_pos h.config_legal, latch_needs_quirk := nofun }
  · rw [timerStep_count s hn]
    exact { h with tick_lt := lt_of_le_of_ne h.tick_lt hn }

/-- reset() is given only without a record (spec/70_reset_and_hazards.md R234). -/
theorem inv_hostReset (h : Inv s) (hf : s.fault = none) : Inv (hostReset s) :=
  { h with
    sp_le_cap := Nat.zero_le _
    tick_lt := tickN_pos h.config_legal
    latch_needs_quirk := nofun
    fault_matches := by simp [hostReset, hf] }

/-! ### The invariant under an instruction, a cycle and a host command -/

/-- Every instruction that runs in the Running state keeps the invariant. -/
theorem inv_exec (i : Instr) (h : Inv s) (hf : s.fault = none) (hb : s.blocked = false)
    (he : exec i s = .next t) : Inv t := by
  rcases exec_cases s i t he with ⟨r, d, rfl⟩ | ⟨a, rfl⟩ | ⟨a, rfl⟩ | ⟨b, rfl⟩ | ⟨b, rfl⟩ | rfl | ⟨r, a, rfl⟩ |
    ⟨w, vs, a, rfl⟩ | ⟨k, w, rfl⟩ | ⟨hroom, a, rfl⟩ | ⟨a, rfl⟩ | ⟨x, -, rfl⟩ | ⟨x, y, n, rfl⟩
  · exact { h with }
  · exact inv_setPc a h hf
  · exact inv_setI a h
  · exact { h with }
  · exact { h with }
  · exact { h with }
  · exact { h with }
  · exact inv_setI a (inv_memWriteBytes w vs h)
  · exact inv_raiseFatal k w h hb
  · exact inv_setPc a (inv_push s.pc h hroom) hf
  · exact inv_setPc a (inv_dropTop h) hf
  · exact inv_block x h hf
  · exact inv_drawSprite x y n h

theorem inv_step (h : Inv s) (hs : step s = .next t) : Inv t := by
  obtain ⟨hf, ⟨-, rfl⟩ | ⟨hb, i, t', -, he, rfl⟩ | ⟨hb, -, rfl⟩⟩ := step_cases s t hs
  · exact inv_timerStep (inv_blockedScan h hf)
  · have ht' : Inv t' := inv_exec i (inv_setPc (s.pc + 2) h hf) hf hb he
    split
    · exact ht'
    · exact inv_timerStep ht'
  · exact inv_raiseFatal _ _ (inv_setPc (s.pc + 2) h hf) hb

/-- Everything a host command can do (spec/40_cycle.md R99): a cycle, a key, or reset() without a fault record. -/
theorem hostStep_cases {c : Command} (h : hostStep c s = .next t) :
    step s = .next t ∨ (∃ k d, t = setKey s k d) ∨ (s.fault = none ∧ t = hostReset s) := by
  have hkey : ∀ k d, hostKey k d s = .next t → ∃ k d, t = setKey s k d := by
    intro k d hk
    unfold hostKey at hk
    split at hk <;> cases hk
    exact ⟨_, _, rfl⟩
  cases c with
  | cycle => exact .inl h
  | keyDown k => exact .inr (.inl (hkey k true h))
  | keyUp k => exact .inr (.inl (hkey k false h))
  | reset =>
    simp only [hostStep] at h
    split at h <;> cases h
    next hf => exact .inr (.inr ⟨by simpa using hf, rfl⟩)

theorem inv_hostStep {c : Command} (h : Inv s) (hc : hostStep c s = .next t) : Inv t := by
  rcases hostStep_cases hc with hs | ⟨k, d, rfl⟩ | ⟨hf, rfl⟩
  · exact inv_step h hs
  · exact inv_setKey k d h
  · exact inv_hostReset h hf

theorem inv_reaches (hr : Reaches s t) (h : Inv s) : Inv t := by
  induction hr with
  | refl => exact h
  | step _ _ _ _ hc ih => exact inv_hostStep ih hc

/-! ### The invariant at construction -/

theorem inv_reset : Inv State.reset where
  memory_wf := Memory.wf_nil
  config_legal := ⟨by decide, by decide⟩
  sp_le_cap := Nat.zero_le _
  tick_lt := by decide
  latch_needs_quirk := nofun
  fault_matches := nofun

theorem inv_emptyState (a : Setup) (h : configLegal a.config) : Inv a.emptyState :=
  { inv_reset with
    config_legal := h
    sp_le_cap := Nat.zero_le _
    tick_lt := tickN_pos h
    latch_needs_quirk := nofun }

theorem inv_builtState (a : Setup) (h : configLegal a.config) : Inv a.builtState :=
  inv_memWriteBytes _ _ (inv_memWriteBytes _ _ (inv_memWriteBytes _ _ (inv_emptyState a h)))

/-- The arguments that construction accepts, and the state it then gives (spec/70_reset_and_hazards.md R230 to R232). -/
theorem construct_eq_next (a : Setup) :
    construct a = .next s ↔ a.rom.length ≤ maxRomBytes ∧ configLegal a.config ∧ s = a.builtState := by
  unfold construct
  split_ifs with hrom hips hcap
  · simp [hrom]
  · simp [configLegal, Setup.config, hips]
  · simp [configLegal, Setup.config, hcap]
  · simp only [Host.Outcome.next.injEq, eq_comm (a := s)]
    have hconfig : configLegal a.config := ⟨Nat.not_lt.mp hips, Nat.not_lt.mp hcap⟩
    simp [hconfig, Nat.not_lt.mp hrom]

theorem inv_construct (a : Setup) (h : construct a = .next s) : Inv s := by
  obtain ⟨-, hconfig, rfl⟩ := (construct_eq_next a).mp h
  exact inv_builtState a hconfig

/-! ### The obligations on the invariant -/

/-- Settles O59: each case of a cycle is a sequence of updates that keep the invariant. -/
theorem everyCycleKeepsLegal : Obligations.EveryCycleKeepsLegal := fun _ _ => inv_step

/-- Settles O60, by induction on the run of host commands. -/
theorem everyReachableStateIsLegal : Obligations.EveryReachableStateIsLegal :=
  fun a _ _ hc hr => inv_reaches hr (inv_construct a hc)

/-- Settles O58. -/
theorem resetStateIsLegal : Obligations.ResetStateIsLegal := inv_reset

end Sys2Proof.Machine
end

section
/-! Frames: which elements and registers an instruction may write, as one table of each, and what follows for every
element (spec/10_state.md R21 to R36, spec/20_memory.md R56). -/

namespace Sys2Proof.Machine

variable {s t u : State} {l m : List Part} {p : Part}

/-! ### Frames that compare memory as a whole -/

/-- `Part.same`, but memory is the same list and not only the same at every read. -/
def Part.kept (s t : State) : Part → Prop
  | .memory => t.memory = s.memory
  | p => p.same s t

theorem Part.same_of_kept (h : p.kept s t) : p.same s t := by
  cases p with
  | memory => exact fun a => congrArg (Memory.read · (memAddr a)) h
  | _ => exact h

theorem Part.kept_refl (s : State) (p : Part) : p.kept s s := by cases p <;> rfl

theorem Part.kept_trans (h : p.kept s t) (h' : p.kept t u) : p.kept s u := by
  cases p <;> exact h'.trans h

/-- `sameBut`, with memory compared as a list. -/
def keptBut (written : List Part) (s t : State) : Prop := ∀ p, p ∉ written → p.kept s t

theorem keptBut.sameBut (h : keptBut l s t) : sameBut l s t := fun p hp => Part.same_of_kept (h p hp)

theorem keptBut.mono (h : keptBut l s t) (hl : l ⊆ m) : keptBut m s t := fun p hp => h p fun hpl => hp (hl hpl)

theorem keptBut.trans (h : keptBut l s t) (h' : keptBut m t u) : keptBut (l ++ m) s u := fun p hp => by
  rw [List.mem_append, not_or] at hp
  exact Part.kept_trans (h p hp.1) (h' p hp.2)

/-! ### The frame of each update -/

theorem keptBut_regs (s : State) (r : Vector Byte 16) : keptBut [] s { s with regs := r } := by
  intro p _
  cases p <;> rfl

theorem keptBut_setV (s : State) (x : RegIdx) (b : Byte) : keptBut [] s (setV s x b) := keptBut_regs s _

theorem keptBut_setBitwiseResult (s : State) (x : RegIdx) (b : Byte) : keptBut [] s (setBitwiseResult s x b) := by
  rw [setBitwiseResult_eq]
  exact keptBut_regs s _

theorem keptBut_setPc (s : State) (a : Word) : keptBut [.pc] s (setPc s a) := by
  intro p hp
  cases p with
  | pc => simp at hp
  | _ => rfl

theorem keptBut_skipIf (s : State) (c : Bool) : keptBut [.pc] s (skipIf c s) := by
  rw [skipIf_eq]
  exact keptBut_setPc s _

theorem keptBut_setI (s : State) (a : Word) : keptBut [.i] s (setI s a) := by
  intro p hp
  cases p with
  | i => simp at hp
  | _ => rfl

theorem keptBut_setDt (s : State) (b : Byte) : keptBut [.dt] s (setDt s b) := by
  intro p hp
  cases p with
  | dt => simp at hp
  | _ => rfl

theorem keptBut_setSt (s : State) (b : Byte) : keptBut [.st] s (setSt s b) := by
  intro p hp
  cases p with
  | st => simp at hp
  | _ => rfl

theorem keptBut_setScreen (s : State) (g : Vector Bool 2048) : keptBut [.screen] s (setScreen s g) := by
  intro p hp
  cases p with
  | screen => simp at hp
  | _ => rfl

theorem keptBut_push (s : State) (a : Word) : keptBut [.stack] s (push s a) := by
  intro p hp
  cases p with
  | stack => simp at hp
  | _ => rfl

theorem keptBut_dropTop (s : State) : keptBut [.stack] s (dropTop s) := by
  intro p hp
  cases p with
  | stack => simp at hp
  | _ => rfl

theorem keptBut_raiseFatal (s : State) (k : FatalKind) (w : Word) : keptBut [.fault] s (raiseFatal k w s) := by
  intro p hp
  cases p with
  | fault => simp at hp
  | _ => rfl

theorem keptBut_countDraw (s : State) : keptBut [.draws] s (countDraw s) := by
  intro p hp
  cases p with
  | draws => simp at hp
  | _ => rfl

theorem keptBut_block (s : State) (x : RegIdx) : keptBut [.blocked, .blockedReg] s (block s x) := by
  intro p hp
  cases p with
  | blocked | blockedReg => simp at hp
  | _ => rfl

theorem keptBut_memWriteBytes (s : State) (a : Word) (vs : List Byte) :
    keptBut [.memory] s (memWriteBytes s a vs) := by
  intro p hp
  rw [memWriteBytes_eq]
  cases p with
  | memory => simp at hp
  | _ => rfl

/-- The end of FX55 and FX65 writes I under quirk memory alone. -/
theorem keptBut_advanceIndex (s : State) (x : RegIdx) {q : Quirks} (hq : s.cfg.quirks = q) :
    keptBut (if q.memory then [.i] else []) s (advanceIndex s x) := by
  subst hq
  unfold advanceIndex
  split
  · exact keptBut_setI s _
  · exact fun p _ => Part.kept_refl s p

/-- A DXYN that draws writes the latch under quirk display_wait alone (spec/10_state.md R35). -/
theorem keptBut_drawSprite (s : State) (x y : RegIdx) (n : Nibble) :
    keptBut (.screen :: if s.cfg.quirks.displayWait then [.dwLatch] else []) s (drawSprite s x y n) := by
  intro p hp
  rw [drawSprite_eq]
  cases p with
  | screen => simp at hp
  | dwLatch =>
    have hq : s.cfg.quirks.displayWait = false := by simpa using hp
    simp [Part.kept, Part.same, hq]
  | _ => rfl

theorem keptBut_blockedScan (s : State) : keptBut [.blocked] s (blockedScan s) := by
  intro p hp
  rw [blockedScan_eq]
  cases p with
  | blocked => simp at hp
  | _ => rfl

theorem keptBut_timerStep (s : State) : keptBut [.dt, .st, .dwLatch, .tickCount] s (timerStep s) := by
  intro p hp
  rw [timerStep_eq]
  cases p with
  | dt | st | dwLatch | tickCount => simp at hp
  | _ => rfl

/-! ### The elements an instruction may write -/

/-- The elements apart from V0..VF that an instruction may write under the quirks. -/
def partsWritten (q : Quirks) : Instr → List Part
  | .sys _ => [.fault]
  | .cls => [.screen]
  | .ret | .call _ => [.stack, .pc, .fault]
  | .jp _ | .jpV0 _ | .seImm _ _ | .sneImm _ _ | .seReg _ _ _ | .sneReg _ _ _ | .skp _ | .sknp _ => [.pc]
  | .ldImm _ _ | .addImm _ _ | .ldReg _ _ | .orReg _ _ | .andReg _ _ | .xorReg _ _ | .addReg _ _ | .subReg _ _
  | .shrReg _ _ | .subnReg _ _ | .shlReg _ _ | .ldVxDt _ => []
  | .ldI _ | .addI _ | .ldFont _ => [.i]
  | .rnd _ _ => [.draws]
  | .drw _ _ _ => .screen :: if q.displayWait then [.dwLatch, .pc] else []
  | .ldVxKey _ => [.blocked, .blockedReg]
  | .ldDtVx _ => [.dt]
  | .ldStVx _ => [.st]
  | .ldBcd _ => [.memory]
  | .storeRegs _ => .memory :: if q.memory then [.i] else []
  | .loadRegs _ => if q.memory then [.i] else []

/-- No instruction changes an element outside its row of the table. -/
theorem exec_keptBut (i : Instr) (h : exec i s = .next t) : keptBut (partsWritten s.cfg.quirks i) s t := by
  cases i with
  | sys _ => cases h; exact keptBut_raiseFatal s _ _
  | cls => cases h; exact keptBut_setScreen s _
  | ret =>
    rcases List.eq_nil_or_concat s.stack with he | ⟨below, a, he⟩
    · rw [exec_ret_empty s he] at h
      cases h; exact (keptBut_raiseFatal s _ _).mono (by simp [partsWritten])
    · rw [exec_ret_append s below a (by simpa using he)] at h
      cases h; exact ((keptBut_dropTop s).trans (keptBut_setPc _ a)).mono (by simp [partsWritten])
  | call nnn =>
    by_cases hroom : s.sp < s.cfg.stackCap
    · rw [exec_call_room s nnn hroom] at h
      cases h; exact ((keptBut_push s _).trans (keptBut_setPc _ _)).mono (by simp [partsWritten])
    · rw [exec_call_full s nnn (Nat.not_lt.mp hroom)] at h
      cases h; exact (keptBut_raiseFatal s _ _).mono (by simp [partsWritten])
  | jp _ | jpV0 _ => cases h; exact keptBut_setPc s _
  | seImm _ _ | sneImm _ _ | seReg _ _ _ | sneReg _ _ _ | skp _ | sknp _ => cases h; exact keptBut_skipIf s _
  | ldImm _ _ | addImm _ _ | ldReg _ _ | addReg _ _ | subReg _ _ | shrReg _ _ | subnReg _ _ | shlReg _ _ | ldVxDt _ =>
    cases h; exact keptBut_regs s _
  | orReg _ _ | andReg _ _ | xorReg _ _ => cases h; exact keptBut_setBitwiseResult s _ _
  | ldI _ | addI _ | ldFont _ => cases h; exact keptBut_setI s _
  | rnd _ _ => cases h; exact (keptBut_setV s _ _).trans (keptBut_countDraw _)
  | drw x y n =>
    by_cases hwait : s.cfg.quirks.displayWait = true ∧ s.dwLatch = true
    · rw [exec_drw_wait s x y n hwait.1 hwait.2, retryDraw_eq] at h
      cases h; exact (keptBut_setPc s _).mono (by simp [partsWritten, hwait.1])
    · rw [exec_drw_draw s x y n hwait] at h
      cases h; refine (keptBut_drawSprite s x y n).mono ?_
      simp only [partsWritten]
      split <;> simp
  | ldVxKey x =>
    cases hk : firstKeyDown s with
    | none =>
      rw [exec_ldVxKey_none s x hk] at h
      cases h; exact keptBut_block s x
    | some k =>
      rw [exec_ldVxKey_some s x k hk] at h
      cases h; exact (keptBut_setV s x _).mono (List.nil_subset _)
  | ldDtVx _ => cases h; exact keptBut_setDt s _
  | ldStVx _ => cases h; exact keptBut_setSt s _
  | ldBcd _ => cases h; exact keptBut_memWriteBytes s _ _
  | storeRegs x =>
    rw [exec_storeRegs] at h
    cases h; exact (keptBut_memWriteBytes s _ _).trans (keptBut_advanceIndex _ x (by rw [memWriteBytes_eq]))
  | loadRegs x =>
    rw [exec_loadRegs] at h
    cases h; exact (keptBut_regs s _).trans (keptBut_advanceIndex _ x rfl)

/-- An element that changed is in the table's row. -/
theorem mem_partsWritten (p : Part) {i : Instr} (he : exec i s = .next t) (h : ¬ p.kept s t) :
    p ∈ partsWritten s.cfg.quirks i :=
  not_not.mp fun hp => h (exec_keptBut i he p hp)

/-! ### The table by element: the instructions that may write it -/

section Table

variable {q : Quirks} {i : Instr}

theorem stack_mem_partsWritten : .stack ∈ partsWritten q i ↔ i = .ret ∨ ∃ nnn, i = .call nnn := by
  cases i <;> simp [partsWritten]

theorem screen_mem_partsWritten : .screen ∈ partsWritten q i ↔ i = .cls ∨ ∃ x y n, i = .drw x y n := by
  cases i <;> simp [partsWritten]

theorem memory_mem_partsWritten : .memory ∈ partsWritten q i ↔ ∃ x, i = .ldBcd x ∨ i = .storeRegs x := by
  cases i <;> simp [partsWritten]

theorem i_mem_partsWritten : .i ∈ partsWritten q i ↔
    (∃ nnn, i = .ldI nnn) ∨ (∃ x, i = .addI x ∨ i = .ldFont x) ∨
      (q.memory = true ∧ ∃ x, i = .storeRegs x ∨ i = .loadRegs x) := by
  cases i <;> simp [partsWritten]

theorem dt_mem_partsWritten : .dt ∈ partsWritten q i ↔ ∃ x, i = .ldDtVx x := by
  cases i <;> simp [partsWritten]

theorem st_mem_partsWritten : .st ∈ partsWritten q i ↔ ∃ x, i = .ldStVx x := by
  cases i <;> simp [partsWritten]

theorem dwLatch_mem_partsWritten :
    .dwLatch ∈ partsWritten q i ↔ q.displayWait = true ∧ ∃ x y n, i = .drw x y n := by
  cases i <;> simp [partsWritten]

theorem blocked_mem_partsWritten : .blocked ∈ partsWritten q i ↔ ∃ x, i = .ldVxKey x := by
  cases i <;> simp [partsWritten]

theorem blockedReg_mem_partsWritten : .blockedReg ∈ partsWritten q i ↔ ∃ x, i = .ldVxKey x := by
  cases i <;> simp [partsWritten]

theorem pc_mem_partsWritten : .pc ∈ partsWritten q i ↔
    i = .ret ∨ (∃ nnn, i = .jp nnn ∨ i = .call nnn ∨ i = .jpV0 nnn) ∨
      (∃ x nn, i = .seImm x nn ∨ i = .sneImm x nn) ∨ (∃ x y n, i = .seReg x y n ∨ i = .sneReg x y n) ∨
      (∃ x, i = .skp x ∨ i = .sknp x) ∨ (q.displayWait = true ∧ ∃ x y n, i = .drw x y n) := by
  cases i <;> simp [partsWritten]

/-- Only the timer step counts cycles, only the host moves keys, and nothing changes the configuration. -/
theorem tickCount_keys_cfg_not_mem_partsWritten (hp : p = .tickCount ∨ p = .keys ∨ p = .cfg) : p ∉ partsWritten q i := by
  rcases hp with rfl | rfl | rfl <;> cases i <;> simp [partsWritten]

end Table

/-! ### The registers an instruction may write -/

/-- The registers that an instruction may write under the quirks: flag writers write VF (spec/10_state.md R21). -/
def regsWritten (q : Quirks) : Instr → List RegIdx
  | .ldImm x _ | .addImm x _ | .ldReg x _ | .rnd x _ | .ldVxDt x | .ldVxKey x => [x]
  | .orReg x _ | .andReg x _ | .xorReg x _ => x :: if q.vfReset then [vf] else []
  | .addReg x _ | .subReg x _ | .shrReg x _ | .subnReg x _ | .shlReg x _ => [x, vf]
  | .drw _ _ _ => [vf]
  | .loadRegs x => regsThrough x
  | .sys _ | .cls | .ret | .jp _ | .call _ | .seImm _ _ | .sneImm _ _ | .seReg _ _ _ | .sneReg _ _ _ | .ldI _ | .jpV0 _
  | .skp _ | .sknp _ | .ldDtVx _ | .ldStVx _ | .addI _ | .ldFont _ | .ldBcd _ | .storeRegs _ => []

theorem skipIf_regs (s : State) (c : Bool) : (skipIf c s).regs = s.regs := by
  rw [skipIf_eq, setPc_regs]

theorem memWriteBytes_regs (s : State) (a : Word) (vs : List Byte) : (memWriteBytes s a vs).regs = s.regs := by
  rw [memWriteBytes_eq]

theorem regsSameBut_of_regs_eq {xs : List RegIdx} (h : t.regs = s.regs) : regsSameBut xs s t := by
  intro y _
  simp [getV, h]

theorem regsSameBut_setV {xs : List RegIdx} {x : RegIdx} (b : Byte) (h : regsSameBut xs s t) (hx : x ∈ xs) :
    regsSameBut xs s (setV t x b) := by
  intro y hy
  rw [getV_setV_other _ _ _ _ (ne_of_mem_of_not_mem hx hy).symm]
  exact h y hy

theorem regsSameBut_setResultThenFlag (s : State) (x : RegIdx) (b : Byte) (f : Bool) :
    regsSameBut [x, vf] s (setResultThenFlag s x b f) :=
  regsSameBut_setV _ (regsSameBut_setV _ (regsSameBut_of_regs_eq rfl) (by simp)) (by simp)

theorem regsSameBut_setBitwiseResult (s : State) (x : RegIdx) (b : Byte) :
    regsSameBut (x :: if s.cfg.quirks.vfReset then [vf] else []) s (setBitwiseResult s x b) := by
  unfold setBitwiseResult
  split
  · exact regsSameBut_setResultThenFlag s x b false
  · exact regsSameBut_setV b (regsSameBut_of_regs_eq rfl) (by simp)

/-- No instruction changes a register outside its row of the table. -/
theorem exec_regsSameBut (i : Instr) (h : exec i s = .next t) : regsSameBut (regsWritten s.cfg.quirks i) s t := by
  cases i with
  | ret =>
    rcases List.eq_nil_or_concat s.stack with he | ⟨below, a, he⟩
    · rw [exec_ret_empty s he] at h
      cases h; exact regsSameBut_of_regs_eq rfl
    · rw [exec_ret_append s below a (by simpa using he)] at h
      cases h; exact regsSameBut_of_regs_eq rfl
  | call nnn =>
    by_cases hroom : s.sp < s.cfg.stackCap
    · rw [exec_call_room s nnn hroom] at h
      cases h; exact regsSameBut_of_regs_eq rfl
    · rw [exec_call_full s nnn (Nat.not_lt.mp hroom)] at h
      cases h; exact regsSameBut_of_regs_eq rfl
  | sys _ | cls | jp _ | jpV0 _ | ldI _ | addI _ | ldFont _ | ldDtVx _ | ldStVx _ =>
    cases h; exact regsSameBut_of_regs_eq rfl
  | seImm _ _ | sneImm _ _ | seReg _ _ _ | sneReg _ _ _ | skp _ | sknp _ =>
    cases h; exact regsSameBut_of_regs_eq (skipIf_regs s _)
  | ldImm _ _ | addImm _ _ | ldReg _ _ | rnd _ _ | ldVxDt _ =>
    cases h; exact regsSameBut_setV _ (regsSameBut_of_regs_eq rfl) (List.mem_singleton_self _)
  | orReg _ _ | andReg _ _ | xorReg _ _ => cases h; exact regsSameBut_setBitwiseResult s _ _
  | addReg _ _ | subReg _ _ | shrReg _ _ | subnReg _ _ | shlReg _ _ =>
    cases h; exact regsSameBut_setResultThenFlag s _ _ _
  | drw x y n =>
    by_cases hwait : s.cfg.quirks.displayWait = true ∧ s.dwLatch = true
    · rw [exec_drw_wait s x y n hwait.1 hwait.2, retryDraw_eq] at h
      cases h; exact regsSameBut_of_regs_eq rfl
    · rw [exec_drw_draw s x y n hwait, drawSprite_eq] at h
      cases h; exact regsSameBut_setV _ (regsSameBut_of_regs_eq rfl) (List.mem_singleton_self _)
  | ldVxKey x =>
    cases hk : firstKeyDown s with
    | none =>
      rw [exec_ldVxKey_none s x hk] at h
      cases h; exact regsSameBut_of_regs_eq rfl
    | some k =>
      rw [exec_ldVxKey_some s x k hk] at h
      cases h; exact regsSameBut_setV _ (regsSameBut_of_regs_eq rfl) (List.mem_singleton_self _)
  | ldBcd x => cases h; exact regsSameBut_of_regs_eq (memWriteBytes_regs s _ _)
  | storeRegs x =>
    rw [exec_storeRegs, advanceIndex_eq] at h
    cases h; exact regsSameBut_of_regs_eq (memWriteBytes_regs s _ _)
  | loadRegs x =>
    rw [exec_loadRegs, advanceIndex_eq] at h
    cases h
    intro y hy
    exact ((loadRange_spec (regsThrough x) s).2 y).trans (if_neg hy)

theorem vf_mem_regsThrough (x : RegIdx) : 0xF#4 ∈ regsThrough x ↔ x = 0xF#4 := by
  rw [mem_regsThrough]
  bv_omega

/-- The table's rows that hold VF. -/
theorem vf_mem_regsWritten {q : Quirks} {i : Instr} : 0xF#4 ∈ regsWritten q i ↔
    (∃ x y, i = .addReg x y ∨ i = .subReg x y ∨ i = .subnReg x y ∨ i = .shrReg x y ∨ i = .shlReg x y) ∨
    (∃ x y n, i = .drw x y n) ∨
    (∃ x y, (i = .orReg x y ∨ i = .andReg x y ∨ i = .xorReg x y) ∧ (q.vfReset = true ∨ x = 0xF#4)) ∨
    (∃ nn, i = .ldImm 0xF#4 nn ∨ i = .addImm 0xF#4 nn ∨ i = .rnd 0xF#4 nn) ∨ (∃ y, i = .ldReg 0xF#4 y) ∨
    i = .ldVxDt 0xF#4 ∨ i = .ldVxKey 0xF#4 ∨ i = .loadRegs 0xF#4 := by
  cases i <;> simp [regsWritten, vf, vf_mem_regsThrough, eq_comm (a := 0xF#4), or_comm]

/-! ### The inputs: keys and configuration -/

theorem keptBut.keeps_input (h : keptBut l s t) (hl : .keys ∉ l ∧ .cfg ∉ l) (hp : p = .keys ∨ p = .cfg) :
    p.kept s t := by
  rcases hp with rfl | rfl
  · exact h _ hl.1
  · exact h _ hl.2

/-- No cycle writes the keys or the configuration (spec/10_state.md R30, R32). -/
theorem step_keeps_input (h : step s = .next u) (hp : p = .keys ∨ p = .cfg) : p.kept s u := by
  have hpc : p.kept s (advancePc s) := (keptBut_setPc s _).keeps_input (by decide) hp
  have htimer : ∀ t, p.kept t (timerStep t) := fun t => (keptBut_timerStep t).keeps_input (by decide) hp
  obtain ⟨-, ⟨-, rfl⟩ | ⟨-, i, t, -, he, rfl⟩ | ⟨-, -, rfl⟩⟩ := step_cases s u h
  · exact Part.kept_trans ((keptBut_blockedScan s).keeps_input (by decide) hp) (htimer _)
  · have ht : p.kept s t :=
      Part.kept_trans hpc (exec_keptBut i he p (tickCount_keys_cfg_not_mem_partsWritten (.inr hp)))
    split
    · exact ht
    · exact Part.kept_trans ht (htimer t)
  · exact Part.kept_trans hpc ((keptBut_raiseFatal _ _ _).keeps_input (by decide) hp)

/-- No host command writes the configuration (spec/10_state.md R32). -/
theorem hostStep_cfg {c : Command} (h : hostStep c s = .next t) : t.cfg = s.cfg := by
  rcases hostStep_cases h with hs | ⟨k, d, rfl⟩ | ⟨-, rfl⟩
  · exact step_keeps_input hs (.inr rfl)
  · rfl
  · rfl

/-! ### The reset state -/

/-- Unlisted memory holds the font at 0x000 to 0x04F (spec/10_state.md R27). -/
theorem memRead_reset_font (a : Word) (ha : a.toNat < 80) :
    some (memRead State.reset a) = defaultFont[a.toNat]? := by
  have hlt : a.toNat < defaultFont.length := ha
  have haddr : memAddr a = a.toNat := Nat.mod_eq_of_lt (by omega)
  calc some (memRead State.reset a)
      = some (unlistedByte (memAddr a)) := rfl
    _ = defaultFont[a.toNat]? := by
      rw [haddr, unlistedByte, List.getD_eq_getElem _ _ hlt, List.getElem?_eq_getElem hlt]

theorem pixel_reset (row : Fin 32) (col : Fin 64) : pixel State.reset row col = false := by
  simp [pixel, State.reset]

theorem keyDown_reset (k : Key) : keyDown State.reset k = false := by
  simp [keyDown, State.reset]

/-! ### The obligations on frames, inputs and the reset state -/

/-- Settles O29: an instruction that changes VF has VF in its row of `regsWritten`. -/
theorem vfChangesOnlyInItsWriters : Obligations.VfChangesOnlyInItsWriters := by
  intro i s t he hne
  have hvf : 0xF#4 ∈ regsWritten s.cfg.quirks i := not_not.mp fun hn => hne (exec_regsSameBut i he _ hn)
  exact vf_mem_regsWritten.mp hvf

/-- Settles O49: each element that changed is in the instruction's row of `partsWritten`. -/
theorem onlyListedInstructionsWriteStores : Obligations.OnlyListedInstructionsWriteStores := by
  intro i s t he
  exact ⟨fun h => stack_mem_partsWritten.mp (mem_partsWritten .stack he h),
    fun h => screen_mem_partsWritten.mp (mem_partsWritten .screen he h),
    fun h => memory_mem_partsWritten.mp (mem_partsWritten .memory he h),
    fun h => i_mem_partsWritten.mp (mem_partsWritten .i he h)⟩

/-- Settles O50: each element that changed is in the instruction's row of `partsWritten`, and the tick count is in none. -/
theorem onlyListedInstructionsWriteControl : Obligations.OnlyListedInstructionsWriteControl := by
  intro i s t he
  refine ⟨fun h => dt_mem_partsWritten.mp (mem_partsWritten .dt he h),
    fun h => st_mem_partsWritten.mp (mem_partsWritten .st he h),
    fun h => dwLatch_mem_partsWritten.mp (mem_partsWritten .dwLatch he h), ?blocked,
    exec_keptBut i he .tickCount (tickCount_keys_cfg_not_mem_partsWritten (.inl rfl)),
    fun h => pc_mem_partsWritten.mp (mem_partsWritten .pc he h)⟩
  case blocked =>
    rintro (h | h)
    · exact blocked_mem_partsWritten.mp (mem_partsWritten .blocked he h)
    · exact blockedReg_mem_partsWritten.mp (mem_partsWritten .blockedReg he h)

/-- Settles O51: neither element is written by a cycle, and no other command writes the configuration. -/
theorem keysAndQuirksAreInputs : Obligations.KeysAndQuirksAreInputs :=
  ⟨fun _ _ hs => step_keeps_input hs (.inl rfl), fun _ _ _ => hostStep_cfg⟩

/-- Settles O52. -/
theorem resetStateHoldsSpecValues : Obligations.ResetStateHoldsSpecValues :=
  ⟨rfl, rfl, rfl, rfl, rfl, pixel_reset, keyDown_reset, rfl, rfl, rfl, rfl, rfl, memRead_reset_font, by decide⟩

end Sys2Proof.Machine
end

section
/-! The array as the fetch and the stores see it (spec/20_memory.md R50 to R63): the word at PC, a store at PC, and why
the canonical form of a memory is unique. -/

namespace Sys2Proof.Machine

/-! ### The fetched word -/

/-- The high byte counts 256 (spec/20_memory.md R54). -/
theorem toNat_wordOfBytes (hi lo : Byte) : (wordOfBytes hi lo).toNat = 256 * hi.toNat + lo.toNat := by
  have happend : (wordOfBytes hi lo).toNat = hi.toNat <<< 8 ||| lo.toNat := BitVec.toNat_append hi lo
  rw [happend, ← Nat.shiftLeft_add_eq_or_of_lt lo.isLt, Nat.shiftLeft_eq, Nat.mul_comm]

/-- The wrap of PC + 1 modulo 65536 does not show modulo 4096 (spec/20_memory.md R51). -/
theorem memAddr_add_one (a : Word) : memAddr (a + 1) = (a.toNat + 1) % 4096 := by
  have hadd : (a + 1).toNat = (a.toNat + 1) % 65536 := BitVec.toNat_add a 1
  rw [memAddr, hadd, Nat.mod_mod_of_dvd _ (by decide)]

theorem fetchWord_timerStep (s : State) : fetchWord (timerStep s) = fetchWord s := by
  rw [timerStep_eq]
  rfl

theorem fetchWord_setI (s : State) (a : Word) : fetchWord (setI s a) = fetchWord s := rfl

/-! ### The bytes of FX55 -/

theorem getElem_regsThrough (x k : RegIdx) (h : k.toNat < (regsThrough x).length) : (regsThrough x)[k.toNat] = k := by
  simp [regsThrough]

/-- FX55 leaves Vk at I + k, for k up to X (spec/43_memory_ops.md R154). -/
theorem memRead_storedRegs (s : State) (x k : RegIdx) (hk : k.toNat ≤ x.toNat) :
    memRead (memWriteBytes s s.i ((regsThrough x).map (getV s))) (indexAddr s k.toNat) = getV s k := by
  have hx : x.toNat < 16 := x.isLt
  have hlen : ((regsThrough x).map (getV s)).length = x.toNat + 1 := by
    rw [List.length_map, length_regsThrough]
  have hbyte : k.toNat < ((regsThrough x).map (getV s)).length := by omega
  rw [indexAddr, memRead_memWriteBytes_inside _ s s.i k.toNat hbyte (by omega), List.getElem_map, getElem_regsThrough]

/-- With I at PC, the word at PC after the stores of FX55 is V0 : V1 (spec/20_memory.md R63). -/
theorem fetchWord_storedRegs (s : State) (x : RegIdx) (hx : 1 ≤ x.toNat) (hi : s.i = s.pc) :
    fetchWord (memWriteBytes s s.i ((regsThrough x).map (getV s))) = wordOfBytes (getV s 0x0#4) (getV s 0x1#4) := by
  have hpc : (memWriteBytes s s.i ((regsThrough x).map (getV s))).pc = indexAddr s 0 := by
    rw [memWriteBytes_eq, indexAddr, BitVec.add_zero, hi]
  have hpc1 : indexAddr s 0 + 1 = indexAddr s 1 := by rw [indexAddr, BitVec.add_zero]; rfl
  rw [fetchWord, hpc, hpc1]
  exact congrArg₂ wordOfBytes (memRead_storedRegs s x 0x0#4 (Nat.zero_le _)) (memRead_storedRegs s x 0x1#4 hx)

/-! ### The canonical form -/

/-- A read of an address that no cell names. -/
theorem Memory.read_unlisted {m : Memory} {a : Nat} (h : ∀ c ∈ m, c.1 ≠ a) : Memory.read m a = unlistedByte a := by
  induction m with
  | nil => rfl
  | cons d m ih =>
    have hd : d.1 ≠ a := h d List.mem_cons_self
    rw [Memory.read, if_neg hd]
    exact ih fun c hc => h c (List.mem_cons_of_mem _ hc)

/-- A read of an address that a cell names, where addresses rise. -/
theorem Memory.read_listed {m : Memory} (hm : m.Pairwise (fun c d => c.1 < d.1)) {c : Host.Cell} (hc : c ∈ m) :
    Memory.read m c.1 = c.2 := by
  induction m with
  | nil => cases hc
  | cons d m ih =>
    obtain ⟨hd, hm⟩ := List.pairwise_cons.mp hm
    rcases List.mem_cons.mp hc with rfl | hc
    · exact if_pos rfl
    · rw [Memory.read, if_neg (hd c hc).ne, ih hm hc]

/-- The cells of a canonical memory are the addresses below 4096 that do not read as if unlisted, each with the byte
that it reads as. -/
theorem Memory.mem_iff_read {m : Memory} (hm : Memory.wf m = true) (c : Host.Cell) :
    c ∈ m ↔ c.1 < 4096 ∧ Memory.read m c.1 = c.2 ∧ c.2 ≠ unlistedByte c.1 := by
  obtain ⟨hrise, hcell⟩ := (Memory.wf_iff m).mp hm
  constructor
  · intro hc
    obtain ⟨hlt, hne⟩ := hcell c hc
    exact ⟨hlt, Memory.read_listed hrise hc, hne⟩
  · rintro ⟨-, hread, hne⟩
    by_cases hlisted : ∃ d ∈ m, d.1 = c.1
    · obtain ⟨d, hd, haddr⟩ := hlisted
      have hbyte : d.2 = c.2 := by rw [← Memory.read_listed hrise hd, haddr, hread]
      rwa [← Prod.ext haddr hbyte]
    · push Not at hlisted
      exact absurd (hread.symm.trans (Memory.read_unlisted hlisted)) hne

/-! ### The obligations on memory -/

/-- Settles O7: each of the two bytes is read at its own address modulo 4096. -/
theorem fetchIsBigEndianAndWraps : Obligations.FetchIsBigEndianAndWraps := by
  intro s
  rw [fetchWord, toNat_wordOfBytes, memRead, memRead, memAddr_add_one, memAddr]

/-- Settles O35: neither the advance of I nor the timer step touches what FX55 stored at PC. -/
theorem storeIsSeenByNextFetch : Obligations.StoreIsSeenByNextFetch := by
  intro x s t hx hi he
  rw [exec_storeRegs, advanceIndex_eq] at he
  cases he
  rw [fetchWord_timerStep, fetchWord_setI, fetchWord_storedRegs s x hx hi]

/-- Settles O36: memories that read alike have the same cells, and cells in rising order are one list. -/
theorem canonicalMemoryIsUnique : Obligations.CanonicalMemoryIsUnique := by
  intro m n hm hn hread
  have hcells : ∀ c, c ∈ m ↔ c ∈ n := by
    intro c
    rw [Memory.mem_iff_read hm, Memory.mem_iff_read hn]
    exact and_congr_right fun hlt => by rw [hread c.1 hlt]
  obtain ⟨hrise, -⟩ := (Memory.wf_iff m).mp hm
  obtain ⟨hrise', -⟩ := (Memory.wf_iff n).mp hn
  have hasymm : Std.Asymm (fun c d : Host.Cell => c.1 < d.1) := ⟨fun _ _ => lt_asymm⟩
  exact hrise.eq_of_mem_iff hrise' hcells

end Sys2Proof.Machine
end

section
/-! The opcode map (spec/30_encoding.md R70 to R85): what `decode` answers for each word, said once as `Verdict`, what it
answers for an encoded instruction, and which words the rows cover. -/

namespace Sys2Proof

open Laws

/-! ### A word from the fields that its opcode names -/

section Fields
variable {w : Word} {op n : Nibble} {nn : Byte}

theorem formA_of_fieldOp (hop : fieldOp w = op) : formA op (fieldNNN w) = w := hop ▸ formA_fields w

theorem formXB_of_fieldOp (hop : fieldOp w = op) : formXB op (fieldX w) (fieldNN w) = w := hop ▸ formXB_fields w

theorem formXB_of_fieldNN (hop : fieldOp w = op) (hnn : fieldNN w = nn) : formXB op (fieldX w) nn = w :=
  hnn ▸ formXB_of_fieldOp hop

theorem formXYN_of_fieldOp (hop : fieldOp w = op) : formXYN op (fieldX w) (fieldY w) (fieldN w) = w :=
  hop ▸ formXYN_fields w

theorem formXYN_of_fieldN (hop : fieldOp w = op) (hn : fieldN w = n) : formXYN op (fieldX w) (fieldY w) n = w :=
  hn ▸ formXYN_of_fieldOp hop

end Fields

/-! ### Family 0 (R76) -/

theorem formA_inj {op : Nibble} {a b : Addr} : formA op a = formA op b ↔ a = b :=
  ⟨fun h => by simpa using congrArg fieldNNN h, congrArg (formA op)⟩

/-- SYS addr is well-formed exactly when its word is neither that of CLS nor that of RET. -/
theorem wf_sys_iff (nnn : Addr) :
    (Instr.sys nnn).wf = true ↔ formA 0x0#4 nnn ≠ 0x00E0#16 ∧ formA 0x0#4 nnn ≠ 0x00EE#16 := by
  have hcls : formA 0x0#4 nnn = 0x00E0#16 ↔ nnn = 0x0E0#12 := formA_inj (b := 0x0E0#12)
  have hret : formA 0x0#4 nnn = 0x00EE#16 ↔ nnn = 0x0EE#12 := formA_inj (b := 0x0EE#12)
  simp [Instr.wf, hcls, hret]

theorem decode_family0 {w : Word} (hop : fieldOp w = 0x0#4) : decode w = .ok (decodeFamily0 w) := by
  simp [decode, hop]

theorem decodeFamily0_sys {w : Word} (hcls : w ≠ 0x00E0#16) (hret : w ≠ 0x00EE#16) :
    decodeFamily0 w = .sys (fieldNNN w) := by
  rw [decodeFamily0, if_neg hcls, if_neg hret]

/-! ### What `decode` answers for a word -/

/-- The three lists of R78: no row of the opcode map has these fields. -/
def Unlisted (w : Word) : Prop :=
  (fieldOp w = 0x8#4 ∧ fieldN w ∈ [0x8#4, 0x9#4, 0xA#4, 0xB#4, 0xC#4, 0xD#4, 0xF#4]) ∨
  (fieldOp w = 0xE#4 ∧ fieldNN w ∉ [0x9E#8, 0xA1#8]) ∨
  (fieldOp w = 0xF#4 ∧ fieldNN w ∉ [0x07#8, 0x0A#8, 0x15#8, 0x18#8, 0x1E#8, 0x29#8, 0x33#8, 0x55#8, 0x65#8])

/-- The right answer for a word: the well-formed instruction that encodes to it, or Unrecognized on the three lists. -/
inductive Verdict (w : Word) : Decoded → Prop
  | recognized {i : Instr} (hlisted : ¬ Unlisted w) (hwf : i.wf = true) (hword : encode i = w) : Verdict w (.ok i)
  | unrecognized (hunlisted : Unlisted w) : Verdict w (.error (.unrecognized w))

section Verdicts
variable {w : Word}

theorem not_unlisted_of_fieldOp (hop : fieldOp w ∉ [0x8#4, 0xE#4, 0xF#4]) : ¬ Unlisted w := by
  simp only [List.mem_cons, List.not_mem_nil, or_false, not_or] at hop
  simp [Unlisted, hop]

theorem verdict_family0 (hop : fieldOp w = 0x0#4) : Verdict w (.ok (decodeFamily0 w)) := by
  have hlisted : ¬ Unlisted w := not_unlisted_of_fieldOp (by rw [hop]; decide)
  by_cases hcls : w = 0x00E0#16
  · subst hcls
    exact .recognized hlisted rfl rfl
  by_cases hret : w = 0x00EE#16
  · subst hret
    exact .recognized hlisted rfl rfl
  have hword : formA 0x0#4 (fieldNNN w) = w := formA_of_fieldOp hop
  rw [decodeFamily0_sys hcls hret]
  exact .recognized hlisted ((wf_sys_iff _).mpr (by rw [hword]; exact ⟨hcls, hret⟩)) hword

theorem verdict_family8 (hop : fieldOp w = 0x8#4) : Verdict w (decodeFamily8 w) := by
  unfold decodeFamily8
  split
  case h_10 =>
    have hn : fieldN w ∈ [0x8#4, 0x9#4, 0xA#4, 0xB#4, 0xC#4, 0xD#4, 0xF#4] := by
      generalize fieldN w = n at *
      revert n
      decide
    exact .unrecognized (.inl ⟨hop, hn⟩)
  all_goals
    rename_i hn
    exact .recognized (by simp [Unlisted, hop, hn]) rfl (formXYN_of_fieldN hop hn)

theorem verdict_familyE (hop : fieldOp w = 0xE#4) : Verdict w (decodeFamilyE w) := by
  unfold decodeFamilyE
  split
  case h_3 => exact .unrecognized (.inr (.inl ⟨hop, by simp_all⟩))
  all_goals
    rename_i hnn
    exact .recognized (by simp [Unlisted, hop, hnn]) rfl (formXB_of_fieldNN hop hnn)

theorem verdict_familyF (hop : fieldOp w = 0xF#4) : Verdict w (decodeFamilyF w) := by
  unfold decodeFamilyF
  split
  case h_10 => exact .unrecognized (.inr (.inr ⟨hop, by simp_all⟩))
  all_goals
    rename_i hnn
    exact .recognized (by simp [Unlisted, hop, hnn]) rfl (formXB_of_fieldNN hop hnn)

theorem decode_verdict (w : Word) : Verdict w (decode w) := by
  unfold decode
  split
  case h_1 hop => exact verdict_family0 hop
  case h_9 hop => exact verdict_family8 hop
  case h_15 hop => exact verdict_familyE hop
  case h_16 => exact verdict_familyF (nibble_eq_F _ (by simp_all))
  all_goals
    rename_i hop
    refine .recognized (not_unlisted_of_fieldOp (by rw [hop]; decide)) rfl ?_
  case h_2 hop | h_3 hop | h_11 hop | h_12 hop => exact formA_of_fieldOp hop
  case h_4 hop | h_5 hop | h_7 hop | h_8 hop | h_13 hop => exact formXB_of_fieldOp hop
  case h_6 hop | h_10 hop | h_14 hop => exact formXYN_of_fieldOp hop

theorem decode_eq_unrecognized_iff (w : Word) : decode w = .error (.unrecognized w) ↔ Unlisted w := by
  have hverdict := decode_verdict w
  generalize decode w = d at hverdict ⊢
  cases hverdict with
  | recognized hlisted => simp [hlisted]
  | unrecognized hunlisted => simp [hunlisted]

theorem wf_and_encode_of_decode {i : Instr} (h : decode w = .ok i) : i.wf = true ∧ encode i = w := by
  have hverdict := decode_verdict w
  rw [h] at hverdict
  cases hverdict with
  | recognized _ hwf hword => exact ⟨hwf, hword⟩

/-- Every word off the three lists of R78 is the word of an instruction. -/
theorem exists_encode_eq (h : ¬ Unlisted w) : ∃ i : Instr, i.wf = true ∧ encode i = w := by
  have hverdict := decode_verdict w
  generalize decode w = d at hverdict
  cases hverdict with
  | recognized _ hwf hword => exact ⟨_, hwf, hword⟩
  | unrecognized hunlisted => exact absurd hunlisted h

end Verdicts

/-! ### What `decode` answers for an encoded instruction -/

theorem decode_encode {i : Instr} (hwf : i.wf = true) : decode (encode i) = .ok i := by
  cases i with
  | sys nnn =>
    obtain ⟨hcls, hret⟩ := (wf_sys_iff nnn).mp hwf
    rw [encode, decode_family0 (fieldOp_formA ..), decodeFamily0_sys hcls hret, fieldNNN_formA]
  | cls | ret => rfl
  | jp | call | ldI | jpV0 => simp [encode, decode]
  | seImm | sneImm | ldImm | addImm | rnd => simp [encode, decode]
  | seReg | sneReg | drw => simp [encode, decode]
  | ldReg | orReg | andReg | xorReg | addReg | subReg | shrReg | subnReg | shlReg => simp [encode, decode, decodeFamily8]
  | skp | sknp => simp [encode, decode, decodeFamilyE]
  | ldVxDt | ldVxKey | ldDtVx | ldStVx | addI | ldFont | ldBcd | storeRegs | loadRegs =>
    simp [encode, decode, decodeFamilyF]

theorem decodeBytes_of_decode {hi lo : Byte} {i : Instr} (h : decode (wordOfBytes hi lo) = .ok i) (rest : List Byte) :
    decodeBytes (hi :: lo :: rest) = .ok (i, rest) := by
  rw [decodeBytes, h]

/-! ### The rows of the opcode map (R84) -/

section Rows
variable {r q : OpcodeRow} {w : Word}

theorem OpcodeRow.covers_iff : r.covers w = true ↔ w &&& r.mask = r.value := beq_iff_eq

/-- A covered word has the bits of the match wherever the mask is all ones. -/
theorem OpcodeRow.bits_eq_of_covers {start len : Nat} (h : r.covers w = true)
    (hmask : r.mask.extractLsb' start len = BitVec.allOnes len) :
    r.value.extractLsb' start len = w.extractLsb' start len := by
  rw [← covers_iff.mp h, BitVec.extractLsb'_and, hmask, BitVec.and_allOnes]

/-- Two rows that cover one word have the same match under both masks. -/
theorem OpcodeRow.value_and_mask_of_covers (hr : r.covers w = true) (hq : q.covers w = true) :
    r.value &&& q.mask = q.value &&& r.mask := by
  rw [← covers_iff.mp hr, ← covers_iff.mp hq, BitVec.and_assoc, BitVec.and_assoc, BitVec.and_comm r.mask]

/-- Two rows with the same match under both masks are one row, or one of them is CLS or RET. -/
theorem opcodeTable_separated : ∀ r ∈ opcodeTable, ∀ q ∈ opcodeTable, r.value &&& q.mask = q.value &&& r.mask → r ≠ q →
    ∃ p ∈ [r, q], p.mask = 0xFFFF#16 ∧ (p.value = 0x00E0#16 ∨ p.value = 0x00EE#16) := by
  decide

theorem OpcodeRow.eq_value_of_covers (hmask : r.mask = 0xFFFF#16) (h : r.covers w = true) : w = r.value := by
  rw [← covers_iff.mp h, hmask]
  exact (BitVec.and_allOnes).symm

/-- Every row fixes OP, and in the families 8, E and F also the field that selects, off the lists of R78. -/
theorem opcodeTable_listed : ∀ r ∈ opcodeTable, fieldOp r.mask = 0xF#4 ∧
    (fieldOp r.value = 0x8#4 → fieldN r.mask = 0xF#4) ∧
    (fieldOp r.value = 0xE#4 ∨ fieldOp r.value = 0xF#4 → fieldNN r.mask = 0xFF#8) ∧ ¬ Unlisted r.value := by
  unfold Unlisted
  decide

theorem OpcodeRow.not_unlisted_of_covers (hr : r ∈ opcodeTable) (h : r.covers w = true) : ¬ Unlisted w := by
  obtain ⟨hop, hn, hnn, hlisted⟩ := opcodeTable_listed r hr
  have hopw : fieldOp r.value = fieldOp w := bits_eq_of_covers h hop
  have hnw (h8 : fieldOp r.value = 0x8#4) : fieldN r.value = fieldN w := bits_eq_of_covers h (hn h8)
  have hnnw (hEF : fieldOp r.value = 0xE#4 ∨ fieldOp r.value = 0xF#4) : fieldNN r.value = fieldNN w :=
    bits_eq_of_covers h (hnn hEF)
  rw [Unlisted, ← hopw]
  rintro (⟨h8, hmem⟩ | ⟨hE, hmem⟩ | ⟨hF, hmem⟩)
  · exact hlisted (.inl ⟨h8, hnw h8 ▸ hmem⟩)
  · exact hlisted (.inr (.inl ⟨hE, hnnw (.inl hE) ▸ hmem⟩))
  · exact hlisted (.inr (.inr ⟨hF, hnnw (.inr hF) ▸ hmem⟩))

end Rows

/-- The word of every well-formed instruction is covered by the row of its name. -/
theorem tableRow : ∀ i : Instr, TableRow.Statement i
  | .sys _ => TableRow.sys _
  | .cls => TableRow.cls
  | .ret => TableRow.ret
  | .jp _ => TableRow.jp _
  | .call _ => TableRow.call _
  | .seImm _ _ => TableRow.seImm _ _
  | .sneImm _ _ => TableRow.sneImm _ _
  | .seReg _ _ _ => TableRow.seReg _ _ _
  | .ldImm _ _ => TableRow.ldImm _ _
  | .addImm _ _ => TableRow.addImm _ _
  | .ldReg _ _ => TableRow.ldReg _ _
  | .orReg _ _ => TableRow.orReg _ _
  | .andReg _ _ => TableRow.andReg _ _
  | .xorReg _ _ => TableRow.xorReg _ _
  | .addReg _ _ => TableRow.addReg _ _
  | .subReg _ _ => TableRow.subReg _ _
  | .shrReg _ _ => TableRow.shrReg _ _
  | .subnReg _ _ => TableRow.subnReg _ _
  | .shlReg _ _ => TableRow.shlReg _ _
  | .sneReg _ _ _ => TableRow.sneReg _ _ _
  | .ldI _ => TableRow.ldI _
  | .jpV0 _ => TableRow.jpV0 _
  | .rnd _ _ => TableRow.rnd _ _
  | .drw _ _ _ => TableRow.drw _ _ _
  | .skp _ => TableRow.skp _
  | .sknp _ => TableRow.sknp _
  | .ldVxDt _ => TableRow.ldVxDt _
  | .ldVxKey _ => TableRow.ldVxKey _
  | .ldDtVx _ => TableRow.ldDtVx _
  | .ldStVx _ => TableRow.ldStVx _
  | .addI _ => TableRow.addI _
  | .ldFont _ => TableRow.ldFont _
  | .ldBcd _ => TableRow.ldBcd _
  | .storeRegs _ => TableRow.storeRegs _
  | .loadRegs _ => TableRow.loadRegs _

/-! ### The obligations on the encoding -/

/-- Settles O2: the fields of each format are read back from its word, and SYS addr never has the word of CLS or RET. -/
theorem decodeOfEncode : Obligations.DecodeOfEncode := by
  intro i rest hwf
  have hdecode := decode_encode hwf
  exact ⟨hdecode, decodeBytes_of_decode (by rwa [wordOfBytes_bytes]) rest⟩

/-- Settles O3: an instruction is a right verdict only when it encodes to the word. -/
theorem encodeOfDecode : Obligations.EncodeOfDecode := fun _ _ => wf_and_encode_of_decode

/-- Settles O4: Unrecognized is a right verdict exactly on the three lists. -/
theorem unrecognizedWords : Obligations.UnrecognizedWords := decode_eq_unrecognized_iff

/-- Settles O6: two rows that cover a word agree under both masks, an instruction's word has its row, and no row covers
a word of the three lists. -/
theorem opcodeRowsAreDisjoint : Obligations.OpcodeRowsAreDisjoint := by
  refine fun w => ⟨fun r hr q hq hrw hqw hne => ?_, fun hd r hr => ?_, fun hnone => ?_⟩
  · obtain ⟨p, hp, hmask, hvalue⟩ := opcodeTable_separated r hr q hq (OpcodeRow.value_and_mask_of_covers hrw hqw) hne
    have hpw : p.covers w = true := by
      simp only [List.mem_cons, List.not_mem_nil, or_false] at hp
      rcases hp with rfl | rfl <;> assumption
    rwa [OpcodeRow.eq_value_of_covers hmask hpw]
  · rw [Bool.eq_false_iff]
    exact fun hrw => OpcodeRow.not_unlisted_of_covers hr hrw ((unrecognizedWords w).mp hd)
  · refine (unrecognizedWords w).mpr (by_contra fun hlisted => ?_)
    obtain ⟨i, hwf, rfl⟩ := exists_encode_eq hlisted
    obtain ⟨r, hr, -, hcovers⟩ := tableRow i hwf
    exact absurd hcovers (by rw [hnone r hr]; decide)

/-- Settles O1: each of the words is decoded. -/
theorem specWordsDecode : Obligations.SpecWordsDecode := by
  unfold Obligations.SpecWordsDecode
  decide

/-- Settles O5: OP = 0 leads to `decodeFamily0`, which sets CLS and RET apart. -/
theorem familyZeroDecodes : Obligations.FamilyZeroDecodes :=
  ⟨rfl, rfl, fun w hop hcls hret => by rw [decode_family0 hop, decodeFamily0_sys hcls hret]⟩

end Sys2Proof
end

section
/-! The cycle and the host commands (spec/40_cycle.md R90 to R100): what `step` answers in each run state, what a key
command does, and how cycles run in sequence. -/

namespace Sys2Proof.Machine

variable {s t u : State} {i : Instr} {k : Key} {d : Bool} {m n : Nat}

/-! ### A cycle in each run state -/

theorem step_of_faulted (hf : s.fault ≠ none) : step s = .refused .cycleWhenFaulted :=
  if_pos (Option.isSome_iff_ne_none.mpr hf)

theorem step_of_blocked (hf : s.fault = none) (hb : s.blocked = true) :
    step s = .next (timerStep (blockedScan s)) := by
  simp [step, hf, hb]

theorem step_of_running (hr : running s) (hd : decode (fetchWord s) = .ok i) (he : exec i (advancePc s) = .next t) :
    step s = .next (if t.fault = none then timerStep t else t) := by
  obtain ⟨hf, hb⟩ := hr
  have hfinish : step s = finishCycle (exec i (advancePc s)) := by simp [step, hf, hb, hd]
  rw [hfinish, he]
  cases ht : t.fault <;> simp [finishCycle, ht]

/-- The two bytes that the fetch reads, each at its own address modulo 4096 (spec/20_memory.md R55). -/
theorem fetchWord_eq (s : State) : fetchWord s =
    wordOfBytes (Memory.read s.memory (s.pc.toNat % 4096)) (Memory.read s.memory ((s.pc.toNat + 1) % 4096)) := by
  rw [fetchWord, memRead, memRead, memAddr_add_one, memAddr]

/-! ### The key scan of a Blocked cycle -/

theorem blockedScan_of_firstKey (h : firstKey s k) :
    blockedScan s = { setV s s.blockedReg (k.setWidth 8) with blocked := false } := by
  rw [blockedScan, (firstKeyDown_some s k).mpr h]
  rfl

theorem blockedScan_of_noKey (h : noKey s) : blockedScan s = s := by
  rw [blockedScan, (firstKeyDown_none s).mpr h]

theorem exists_firstKey_or_noKey (s : State) : (∃ k, firstKey s k) ∨ noKey s := by
  cases hk : firstKeyDown s with
  | some k => exact .inl ⟨k, (firstKeyDown_some s k).mp hk⟩
  | none => exact .inr ((firstKeyDown_none s).mp hk)

/-- Neither the scan nor the timer step writes PC. -/
theorem blockedCycle_pc (s : State) : (timerStep (blockedScan s)).pc = s.pc :=
  ((keptBut_blockedScan s).trans (keptBut_timerStep _)) .pc (by decide)

/-! ### A Running cycle that ends with a tick -/

theorem toNat_countDown (b : Byte) : (countDown b).toNat = b.toNat - 1 := by
  unfold countDown
  split_ifs with hb
  · rw [hb]; rfl
  · bv_omega

/-- An instruction that raises no fault leaves the tick count, TICK_N and the fault record as they are, so the tick is
taken after it. -/
theorem step_at_tick (hr : running s) (htick : s.tickCount + 1 = tickN s.cfg) (hd : decode (fetchWord s) = .ok i)
    (he : exec i (advancePc s) = .next t) (hi : .fault ∉ partsWritten s.cfg.quirks i) : step s = .next (tick t) := by
  have hkept : ∀ p, p ∉ partsWritten s.cfg.quirks i → p.kept (advancePc s) t := exec_keptBut i he
  have hfault : t.fault = s.fault := hkept .fault hi
  have hcount : t.tickCount = s.tickCount := hkept .tickCount (tickCount_keys_cfg_not_mem_partsWritten (.inl rfl))
  have hcfg : t.cfg = s.cfg := hkept .cfg (tickCount_keys_cfg_not_mem_partsWritten (.inr (.inr rfl)))
  rw [step_of_running hr hd he, if_pos (hfault.trans hr.1), timerStep_tick t (by rw [hcount, hcfg, htick])]

theorem fault_notMem_partsWritten_drw (q : Quirks) (x y : RegIdx) (n : Nibble) :
    .fault ∉ partsWritten q (.drw x y n) := by
  cases h : q.displayWait <;> simp [partsWritten, h]

/-! ### The key commands -/

theorem keptBut_setKey (s : State) (k : Key) (d : Bool) : keptBut [.keys] s (setKey s k d) := by
  intro p hp
  cases p with
  | keys => simp at hp
  | _ => rfl

theorem hostKey_of_le (h : 16 ≤ m) : hostKey m d s = .refused .keyOutOfRange := if_neg (Nat.not_lt.mpr h)

theorem hostKey_toNat (s : State) (k : Key) (d : Bool) : hostKey k.toNat d s = .next (setKey s k d) := by
  rw [hostKey, if_pos k.isLt, BitVec.ofNat_toNat, BitVec.setWidth_eq]

/-- A key command of key k sets key k and nothing else (spec/40_cycle.md R100). -/
theorem hostKey_setsOneKey (s : State) (k : Key) (d : Bool) :
    endsIn (hostKey k.toNat d s) fun t =>
      keyDown t k = d ∧ (∀ j, j ≠ k → keyDown t j = keyDown s j) ∧ regsSameBut [] s t ∧ sameBut [.keys] s t :=
  ⟨setKey s k d, hostKey_toNat s k d, by rw [keyDown_setKey, if_pos rfl],
    fun j hj => by rw [keyDown_setKey, if_neg hj], regsSameBut_of_regs_eq rfl, (keptBut_setKey s k d).sameBut⟩

/-! ### Cycles in sequence -/

theorem cycles_succ_of_ok (hs : step s = .next t) (hf : t.fault = none) : cycles (n + 1) s = cycles n t := by
  simp [cycles, hs, hf]

theorem cycles_succ_of_fault (hs : step s = .next t) (hf : t.fault ≠ none) : cycles (n + 1) s = .next t := by
  simp [cycles, hs, Option.isSome_iff_ne_none.mpr hf]

/-- The first of several cycles answers a next state, and the others run from there when it raised no fault. -/
theorem cycles_succ_cases (h : cycles (n + 1) s = .next u) :
    ∃ t, step s = .next t ∧ ((t.fault = none ∧ cycles n t = .next u) ∨ (t.fault ≠ none ∧ u = t)) := by
  cases hs : step s with
  | fault | refused => simp [cycles, hs] at h
  | next t =>
    refine ⟨t, rfl, ?_⟩
    by_cases hf : t.fault = none
    · exact .inl ⟨hf, cycles_succ_of_ok hs hf ▸ h⟩
    · rw [cycles_succ_of_fault hs hf] at h
      cases h
      exact .inr ⟨hf, rfl⟩

theorem cycles_one (s : State) : cycles 1 s = step s := by
  cases hs : step s <;> simp [cycles, hs]

theorem cycles_add_of_ok (h : cycles m s = .next t) (hf : t.fault = none) : cycles (m + n) s = cycles n t := by
  induction m generalizing s with
  | zero => cases h; rw [Nat.zero_add]
  | succ m ih =>
    obtain ⟨v, hs, ⟨hv, hrest⟩ | ⟨hv, rfl⟩⟩ := cycles_succ_cases h
    · rw [Nat.succ_add, cycles_succ_of_ok hs hv, ih hrest]
    · exact absurd hf hv

theorem cycles_add_of_fault (hsf : s.fault = none) (h : cycles m s = .next t) (hf : t.fault ≠ none) :
    cycles (m + n) s = .next t := by
  induction m generalizing s with
  | zero => cases h; exact absurd hsf hf
  | succ m ih =>
    obtain ⟨v, hs, ⟨hv, hrest⟩ | ⟨hv, rfl⟩⟩ := cycles_succ_cases h
    · rw [Nat.succ_add, cycles_succ_of_ok hs hv, ih hv hrest]
    · rw [Nat.succ_add, cycles_succ_of_fault hs hv]

/-! ### The obligations on the cycle -/

/-- Settles O9: the scan finds the lowest key that is down, or none, and PC is outside the frames of both updates. -/
theorem blockedCycleScansKeys : Obligations.BlockedCycleScansKeys := by
  intro s hf hb
  have hstep : step s = .next (timerStep (blockedScan s)) := step_of_blocked hf hb
  refine ⟨fun k hk => ?_, fun hno => ?_, exists_firstKey_or_noKey s, fun t ht => ?_⟩
  · rw [hstep, blockedScan_of_firstKey hk]
  · rw [hstep, blockedScan_of_noKey hno]
  · rw [hstep] at ht
    cases ht
    exact blockedCycle_pc s

/-- Settles O10: only the key commands do not ask for the fault record. -/
theorem faultedRefusesCycleAndReset : Obligations.FaultedRefusesCycleAndReset := by
  refine ⟨fun s hf => ⟨step_of_faulted hf, step_of_faulted hf, ?reset, ?keys, rfl⟩, fun s hf => ?accepted⟩
  case reset => exact if_pos (Option.isSome_iff_ne_none.mpr hf)
  case keys =>
    intro k d
    cases d
    · exact hostKey_setsOneKey s k false
    · exact hostKey_setsOneKey s k true
  case accepted => exact ⟨hostReset s, by simp [hostStep, hf]⟩

/-- Settles O45: FX15, FX18 and DXYN raise no fault, so the cycle ends with the tick of the state they leave. -/
theorem effectsComeBeforeTimerStep : Obligations.EffectsComeBeforeTimerStep := by
  intro s x y n hr htick
  refine ⟨fun hd => ⟨_, step_at_tick hr htick hd (exec_ldDtVx _ x) (by simp [partsWritten]), ?_⟩,
    fun hd => ⟨_, step_at_tick hr htick hd (exec_ldStVx _ x) (by simp [partsWritten]), ?_⟩, fun hd => ?_⟩
  · exact toNat_countDown (getV s x)
  · exact toNat_countDown (getV s x)
  · obtain ⟨t, he⟩ := exec_isNext (.drw x y n) (advancePc s)
    exact ⟨tick t, step_at_tick hr htick hd he (fault_notMem_partsWritten_drw _ x y n), rfl⟩

/-- Settles O57, by induction on the first count. -/
theorem cyclesRunInSequence : Obligations.CyclesRunInSequence :=
  ⟨fun _ => rfl, fun s _ => cycles_one s, fun _ _ _ _ => cycles_add_of_ok, fun _ _ _ _ => cycles_add_of_fault⟩

/-- Settles O8: every instruction answers a next state, with which the cycle ends. -/
theorem runningCycleExecutesFetched : Obligations.RunningCycleExecutesFetched := by
  intro s i hr hd
  rw [← fetchWord_eq] at hd
  obtain ⟨t, he⟩ := exec_isNext i (advancePc s)
  exact ⟨t, he, step_of_running hr hd he⟩

/-- Settles O56: an index below 16 is the number of a key. -/
theorem keyCommandsSetOneKey : Obligations.KeyCommandsSetOneKey := by
  intro s k
  refine ⟨fun hk => ?_, fun hk => ⟨hostKey_of_le hk, hostKey_of_le hk⟩⟩
  obtain ⟨key, rfl⟩ : ∃ key : Key, key.toNat = k := ⟨BitVec.ofNat 4 k, Nat.mod_eq_of_lt hk⟩
  have hset (d : Bool) : endsIn (hostKey key.toNat d s) fun t =>
      t.keys[key.toNat] = d ∧ (∀ j : Key, j.toNat ≠ key.toNat → keyDown t j = keyDown s j) ∧
      regsSameBut [] s t ∧ sameBut [.keys] s t := by
    obtain ⟨t, ht, hkey, hother, hframe⟩ := hostKey_setsOneKey s key d
    exact ⟨t, ht, hkey, fun j hj => hother j (ne_of_apply_ne _ hj), hframe⟩
  exact ⟨hset true, hset false⟩

end Sys2Proof.Machine
end

section
/-! Control flow (spec/41_control_flow.md R110 to R118): what the jumps, skips, CALL and RET write, with the frame of each
outcome they share. -/

namespace Sys2Proof

/-- The X field of a word of the address format is the high nibble of NNN (R118). -/
theorem fieldX_formA (op : Nibble) (nnn : Addr) : fieldX (formA op nnn) = nnn.extractLsb' 8 4 := by
  apply BitVec.eq_of_getLsbD_eq
  intro k hk
  have hlow : 8 + k < 12 := by omega
  simp [fieldX, getLsbD_formA, hlow]

end Sys2Proof

namespace Sys2Proof.Machine

variable {s : State} {i : Instr}

/-! ### The outcomes that jumps, skips and fatal errors share -/

theorem endsIn_setPc {a : Word} (he : exec i s = .next (setPc s a)) :
    endsIn (exec i s) fun t => t.pc = a ∧ regsSameBut [] s t ∧ sameBut [.pc] s t :=
  ⟨_, he, rfl, regsSameBut_of_regs_eq rfl, (keptBut_setPc s a).sameBut⟩

theorem endsIn_skipIf {c : Bool} (he : exec i s = .next (skipIf c s)) :
    endsIn (exec i s) fun t =>
      t.pc = (if c then s.pc + 2 else s.pc) ∧ regsSameBut [] s t ∧ sameBut [.pc] s t :=
  endsIn_setPc (skipIf_eq c s ▸ he)

theorem endsIn_raiseFatal {kind : FatalKind} {w : Word} (he : exec i s = .next (raiseFatal kind w s)) :
    endsIn (exec i s) fun t =>
      t.fault = some { kind := kind, opcode := w, pc := s.pc } ∧ regsSameBut [] s t ∧ sameBut [.fault] s t :=
  ⟨_, he, rfl, regsSameBut_of_regs_eq rfl, (keptBut_raiseFatal s kind w).sameBut⟩

/-! ### The stack -/

theorem sp_eq_zero_iff : s.sp = 0 ↔ s.stack = [] := List.length_eq_zero_iff

theorem dropTop_push (s : State) (a : Word) : dropTop (push s a) = s := by
  simp [dropTop, push]

theorem keptBut_push_setPc (s : State) (a b : Word) : keptBut [.pc, .stack] s (setPc (push s a) b) :=
  ((keptBut_push s a).trans (keptBut_setPc _ b)).mono (by simp)

theorem keptBut_dropTop_setPc (s : State) (a : Word) : keptBut [.pc, .stack] s (setPc (dropTop s) a) :=
  ((keptBut_dropTop s).trans (keptBut_setPc _ a)).mono (by simp)

/-- Wherever PC has gone since the push, RET takes back the address pushed and leaves the state before the push but
for PC. -/
theorem exec_ret_push (s : State) (a b : Word) : exec .ret (setPc (push s a) b) = .next (setPc s a) := by
  have htop : (setPc (push s a) b).stack = s.stack ++ [a] := rfl
  have hback : setPc (dropTop (setPc (push s a) b)) a = setPc (dropTop (push s a)) a := rfl
  rw [exec_ret_append _ _ _ htop, hback, dropTop_push]

/-! ### BNNN -/

/-- The selector that `exec` takes from NNN is the one that R118 takes from the word. -/
theorem jumpSelector_eq (s : State) (op : Nibble) (nnn : Addr) :
    jumpSelector s nnn = if s.cfg.quirks.jumping then fieldX (formA op nnn) else 0x0#4 := by
  rw [jumpSelector, fieldX_formA]

theorem toNat_addrOperand_add (nnn : Addr) (b : Byte) :
    (addrOperand nnn + b.setWidth 16).toNat = (nnn.toNat + b.toNat) % 65536 := by
  unfold addrOperand
  bv_omega

/-! ### The obligations on control flow -/

/-- Settles O17: CALL pushes the PC that RET takes back. -/
theorem callThenRetComesBack : Obligations.CallThenRetComesBack := by
  intro nnn s t hroom hcall
  rw [exec_call_room s nnn hroom] at hcall
  cases hcall
  exact exec_ret_push s s.pc (addrOperand nnn + 2)

/-- Settles O14. -/
theorem jpLoadsPc : Obligations.JpLoadsPc := fun nnn s =>
  ⟨decode_encode (i := .jp nnn) rfl, endsIn_setPc (exec_jp s nnn)⟩

/-- Settles O15: RET looks at the stack first, and an empty one is the only fault. -/
theorem retPopsPcOrUnderflows : Obligations.RetPopsPcOrUnderflows := by
  refine ⟨decode_encode (i := .ret) rfl, fun s below a hstack => ?pop, fun s hempty => ?underflow⟩
  case pop =>
    exact ⟨_, exec_ret_append s below a hstack, rfl, by simp [hstack], by simp [State.sp, hstack],
      regsSameBut_of_regs_eq rfl, (keptBut_dropTop_setPc s a).sameBut⟩
  case underflow => exact endsIn_raiseFatal (exec_ret_empty s (sp_eq_zero_iff.mp hempty))

/-- Settles O16: CALL compares SP with STACK_CAP first. -/
theorem callPushesPcOrOverflows : Obligations.CallPushesPcOrOverflows := by
  refine fun nnn s => ⟨decode_encode (i := .call nnn) rfl, fun hroom => ?push, fun hfull => ?overflow⟩
  case push =>
    exact ⟨_, exec_call_room s nnn hroom, rfl, by simp [State.sp], rfl, regsSameBut_of_regs_eq rfl,
      (keptBut_push_setPc s s.pc _).sameBut⟩
  case overflow => exact endsIn_raiseFatal (exec_call_full s nnn hfull.ge)

/-- Settles O18. -/
theorem skipsOnImmediate : Obligations.SkipsOnImmediate := by
  refine fun x nn s => ⟨decode_encode (i := .seImm x nn) rfl, decode_encode (i := .sneImm x nn) rfl, ?equal, ?unequal⟩
  case equal => simpa using endsIn_skipIf (exec_seImm s x nn)
  case unequal => simpa using endsIn_skipIf (exec_sneImm s x nn)

/-- Settles O19: the low nibble is read back by `decode` and not looked at by `exec`. -/
theorem skipsOnRegisters : Obligations.SkipsOnRegisters := by
  refine fun x y n s =>
    ⟨decode_encode (i := .seReg x y n) rfl, decode_encode (i := .sneReg x y n) rfl, ?equal, ?unequal⟩
  case equal => simpa using endsIn_skipIf (exec_seReg s x y n)
  case unequal => simpa using endsIn_skipIf (exec_sneReg s x y n)

/-- Settles O20: the sum is taken at 16 bits. -/
theorem jpV0AddsSelectedRegister : Obligations.JpV0AddsSelectedRegister := by
  intro nnn s
  obtain ⟨t, he, hpc, hframe⟩ := endsIn_setPc (exec_jpV0 s nnn)
  refine ⟨decode_encode (i := .jpV0 nnn) rfl, t, he, ?_, hframe⟩
  rw [hpc, toNat_addrOperand_add, jumpSelector_eq s 0xB#4]

end Sys2Proof.Machine
end

section
/-! Register operations (spec/42_register_ops.md R130 to R143): the outcomes that they share, each with its frame, what
the flags and results are as numbers, and the words of family 8 that are no operation. -/

namespace Sys2Proof.Machine

variable {s : State} {i : Instr} {x : RegIdx} {r : Byte}

/-! ### The outcomes that register operations share -/

theorem endsIn_setV (he : exec i s = .next (setV s x r)) :
    endsIn (exec i s) fun t => getV t x = r ∧ regsSameBut [x] s t ∧ sameBut [] s t :=
  ⟨_, he, getV_setV_same s x r, regsSameBut_setV r (regsSameBut_of_regs_eq rfl) (List.mem_singleton_self x),
    (keptBut_setV s x r).sameBut⟩

/-- VF holds the flag even with X = F, because it is written last (spec/10_state.md R22). -/
theorem endsIn_setResultThenFlag {f : Bool} (he : exec i s = .next (setResultThenFlag s x r f)) :
    endsIn (exec i s) fun t =>
      getV t 0xF#4 = flagByte f ∧ (x ≠ 0xF#4 → getV t x = r) ∧ regsSameBut [x, 0xF#4] s t ∧ sameBut [] s t := by
  refine ⟨_, he, ?flag, fun hx => ?result, regsSameBut_setResultThenFlag s x r f, (keptBut_regs s _).sameBut⟩
  case flag => rw [getV_setResultThenFlag, vf, if_pos rfl]
  case result => rw [getV_setResultThenFlag, vf, if_neg hx, if_pos rfl]

theorem setBitwiseResult_of_vfReset (hq : s.cfg.quirks.vfReset = true) :
    setBitwiseResult s x r = setResultThenFlag s x r false := if_pos hq

theorem setBitwiseResult_of_not_vfReset (hq : s.cfg.quirks.vfReset = false) : setBitwiseResult s x r = setV s x r :=
  if_neg (ne_true_of_eq_false hq)

/-- The two ends of 8XY1, 8XY2 and 8XY3: VF zeroed last, or an ordinary register write (R133). -/
theorem endsIn_setBitwiseResult (he : exec i s = .next (setBitwiseResult s x r)) :
    endsIn (exec i s) fun t =>
      (s.cfg.quirks.vfReset = true →
        getV t 0xF#4 = 0x00#8 ∧ (x ≠ 0xF#4 → getV t x = r) ∧ regsSameBut [x, 0xF#4] s t) ∧
      (s.cfg.quirks.vfReset = false → getV t x = r ∧ regsSameBut [x] s t) ∧ sameBut [] s t := by
  cases hq : s.cfg.quirks.vfReset with
  | true =>
    rw [setBitwiseResult_of_vfReset hq] at he
    obtain ⟨t, ht, hflag, hresult, hregs, hframe⟩ := endsIn_setResultThenFlag he
    exact ⟨t, ht, fun _ => ⟨hflag, hresult, hregs⟩, nofun, hframe⟩
  | false =>
    rw [setBitwiseResult_of_not_vfReset hq] at he
    obtain ⟨t, ht, hresult, hregs, hframe⟩ := endsIn_setV he
    exact ⟨t, ht, nofun, fun _ => ⟨hresult, hregs⟩, hframe⟩

/-! ### Flags and results as numbers -/

theorem flagByte_carry (a b : Byte) : flagByte (carry a b) = if a.toNat + b.toNat > 255 then 0x01#8 else 0x00#8 := by
  simp only [flagByte, carry, decide_eq_true_eq]

theorem flagByte_noBorrow (a b : Byte) : flagByte (noBorrow a b) = if a.toNat ≥ b.toNat then 0x01#8 else 0x00#8 := by
  simp only [flagByte, noBorrow, decide_eq_true_eq]

theorem toNat_flagByte (f : Bool) : (flagByte f).toNat = f.toNat := by cases f <;> rfl

theorem toNat_flagByte_shiftedOutRight (a : Byte) : (flagByte (shiftedOutRight a)).toNat = a.toNat % 2 := by
  rw [toNat_flagByte, shiftedOutRight, BitVec.getLsbD, Nat.toNat_testBit, pow_zero, Nat.div_one]

theorem toNat_flagByte_shiftedOutLeft (a : Byte) : (flagByte (shiftedOutLeft a)).toNat = a.toNat / 128 := by
  have hlt : a.toNat < 256 := a.isLt
  rw [toNat_flagByte, shiftedOutLeft, BitVec.getLsbD, Nat.toNat_testBit]
  omega

/-- R137 and R138 state the difference over the integers. -/
theorem toNat_byte_sub (a b : Byte) : ((a - b).toNat : Int) = (a.toNat - b.toNat : Int) % 256 := by
  bv_omega

/-- The end that 8XY5 and 8XY7 share, with the operands in either order (R137, R138). -/
theorem endsIn_subtract {a b : Byte} (he : exec i s = .next (setResultThenFlag s x (a - b) (noBorrow a b))) :
    endsIn (exec i s) fun t =>
      getV t 0xF#4 = (if a.toNat ≥ b.toNat then 0x01#8 else 0x00#8) ∧
      (x ≠ 0xF#4 → ((getV t x).toNat : Int) = (a.toNat - b.toNat : Int) % 256) ∧
      regsSameBut [x, 0xF#4] s t ∧ sameBut [] s t := by
  obtain ⟨t, ht, hflag, hresult, hframe⟩ := endsIn_setResultThenFlag he
  exact ⟨t, ht, by rw [hflag, flagByte_noBorrow], fun hx => by rw [hresult hx, toNat_byte_sub], hframe⟩

/-- The end of 8XY6 in numbers (R139). -/
theorem endsIn_shiftRight {a : Byte} (he : exec i s = .next (setResultThenFlag s x (a >>> 1) (shiftedOutRight a))) :
    endsIn (exec i s) fun t =>
      (getV t 0xF#4).toNat = a.toNat % 2 ∧ (x ≠ 0xF#4 → (getV t x).toNat = a.toNat / 2) ∧
      regsSameBut [x, 0xF#4] s t ∧ sameBut [] s t := by
  obtain ⟨t, ht, hflag, hresult, hframe⟩ := endsIn_setResultThenFlag he
  refine ⟨t, ht, by rw [hflag, toNat_flagByte_shiftedOutRight], fun hx => ?_, hframe⟩
  rw [hresult hx, BitVec.toNat_ushiftRight, Nat.shiftRight_one]

/-- The end of 8XYE in numbers (R141). -/
theorem endsIn_shiftLeft {a : Byte} (he : exec i s = .next (setResultThenFlag s x (a <<< 1) (shiftedOutLeft a))) :
    endsIn (exec i s) fun t =>
      (getV t 0xF#4).toNat = a.toNat / 128 ∧ (x ≠ 0xF#4 → (getV t x).toNat = a.toNat * 2 % 256) ∧
      regsSameBut [x, 0xF#4] s t ∧ sameBut [] s t := by
  obtain ⟨t, ht, hflag, hresult, hframe⟩ := endsIn_setResultThenFlag he
  refine ⟨t, ht, by rw [hflag, toNat_flagByte_shiftedOutLeft], fun hx => ?_, hframe⟩
  rw [hresult hx, BitVec.toNat_shiftLeft, Nat.shiftLeft_eq, pow_one]

/-! ### A cycle that meets an unrecognized word -/

theorem step_of_unrecognized {e : DecodeError} (hr : running s) (hd : decode (fetchWord s) = .error e) :
    step s = .next (raiseFatal .unrecognizedOpcode (fetchWord s) (advancePc s)) := by
  obtain ⟨hf, hb⟩ := hr
  simp [step, hf, hb, hd, finishCycle]

/-! ### The obligations on register operations -/

/-- Settles O11: the low nibble is on the list of R78 for family 8, and the cycle ends with the record. -/
theorem unrecognizedWordFaults : Obligations.UnrecognizedWordFaults := by
  refine ⟨fun x y n hn => ?decodes, fun s w hr hw hd => ?faults⟩
  case decodes =>
    have hlow : fieldN (formXYN 0x8#4 x y n) ∈ [0x8#4, 0x9#4, 0xA#4, 0xB#4, 0xC#4, 0xD#4, 0xF#4] := by
      rwa [fieldN_formXYN]
    exact (decode_eq_unrecognized_iff _).mpr (.inl ⟨fieldOp_formXYN .., hlow⟩)
  case faults =>
    subst hw
    have hframe : keptBut [.pc, .fault] s (raiseFatal .unrecognizedOpcode (fetchWord s) (advancePc s)) :=
      (keptBut_setPc s _).trans (keptBut_raiseFatal _ _ _)
    exact ⟨_, step_of_unrecognized hr hd, rfl, rfl, regsSameBut_of_regs_eq rfl, (hframe.mono (by simp)).sameBut⟩

/-- Settles O24: the three operations differ only in the bitwise result. -/
theorem bitwiseOpsAndVfReset : Obligations.BitwiseOpsAndVfReset := by
  refine fun x y s => ⟨decode_encode (i := .orReg x y) rfl, decode_encode (i := .andReg x y) rfl,
    decode_encode (i := .xorReg x y) rfl, fun i r hir => endsIn_setBitwiseResult ?_⟩
  simp only [List.mem_cons, Prod.mk.injEq, List.not_mem_nil, or_false] at hir
  obtain ⟨rfl, rfl⟩ | ⟨rfl, rfl⟩ | ⟨rfl, rfl⟩ := hir
  · exact exec_orReg s x y
  · exact exec_andReg s x y
  · exact exec_xorReg s x y

/-- Settles O28: the value shifted is the model's `shiftSource`. -/
theorem shiftsSetShiftedOutBit : Obligations.ShiftsSetShiftedOutBit := by
  intro x y s src hsrc
  obtain rfl : src = shiftSource s x y := hsrc
  exact ⟨decode_encode (i := .shrReg x y) rfl, decode_encode (i := .shlReg x y) rfl,
    endsIn_shiftRight (exec_shrReg s x y), endsIn_shiftLeft (exec_shlReg s x y)⟩

/-- Settles O21. -/
theorem ldImmediateSetsRegister : Obligations.LdImmediateSetsRegister := fun x nn s =>
  ⟨decode_encode (i := .ldImm x nn) rfl, endsIn_setV (exec_ldImm s x nn)⟩

/-- Settles O22: the sum of bytes wraps, and V[X] is the one register written. -/
theorem addImmediateWrapsWithoutFlag : Obligations.AddImmediateWrapsWithoutFlag := by
  intro x nn s
  obtain ⟨t, he, hresult, hframe⟩ := endsIn_setV (exec_addImm s x nn)
  exact ⟨decode_encode (i := .addImm x nn) rfl, t, he, by rw [hresult, BitVec.toNat_add], hframe⟩

/-- Settles O23. -/
theorem ldRegisterCopies : Obligations.LdRegisterCopies := fun x y s =>
  ⟨decode_encode (i := .ldReg x y) rfl, endsIn_setV (exec_ldReg s x y)⟩

/-- Settles O25: the carry is that of the old V[X] and V[Y]. -/
theorem addRegistersSetsCarry : Obligations.AddRegistersSetsCarry := by
  intro x y s
  obtain ⟨t, he, hflag, hresult, hframe⟩ := endsIn_setResultThenFlag (exec_addReg s x y)
  exact ⟨decode_encode (i := .addReg x y) rfl, t, he, by rw [hflag, flagByte_carry],
    fun hx => by rw [hresult hx, BitVec.toNat_add], hframe⟩

/-- Settles O26. -/
theorem subRegistersSetsNoBorrow : Obligations.SubRegistersSetsNoBorrow := fun x y s =>
  ⟨decode_encode (i := .subReg x y) rfl, endsIn_subtract (exec_subReg s x y)⟩

/-- Settles O27: a subtraction with the operands the other way round. -/
theorem subnRegistersSetsNoBorrow : Obligations.SubnRegistersSetsNoBorrow := fun x y s =>
  ⟨decode_encode (i := .subnReg x y) rfl, endsIn_subtract (exec_subnReg s x y)⟩

end Sys2Proof.Machine
end

section
/-! Memory operations (spec/43_memory_ops.md R150 to R157): I without memory, what FX33 and FX55 leave in memory, what
FX65 leaves in the registers, and why FX55 then FX65 gives the registers back. -/

namespace Sys2Proof.Machine

variable {s t : State} {i : Instr} {x : RegIdx}

/-! ### The instructions that set I alone -/

theorem endsIn_setI {a : Word} (he : exec i s = .next (setI s a)) :
    endsIn (exec i s) fun t => t.i = a ∧ regsSameBut [] s t ∧ sameBut [.i] s t :=
  ⟨_, he, rfl, regsSameBut_of_regs_eq rfl, (keptBut_setI s a).sameBut⟩

theorem toNat_addrOperand (nnn : Addr) : (addrOperand nnn).toNat = nnn.toNat :=
  BitVec.toNat_setWidth_of_le (by decide)

theorem toNat_word_add_byte (a : Word) (b : Byte) : (a + b.setWidth 16).toNat = (a.toNat + b.toNat) % 65536 := by
  rw [BitVec.toNat_add, BitVec.toNat_setWidth_of_le (by decide)]

/-- The glyphs are 5 bytes apart, and the last of them starts at 75 (R152). -/
theorem toNat_fontAddr (b : Byte) : ((lowNibble b).setWidth 16 * 5).toNat = b.toNat % 16 * 5 := by
  unfold lowNibble
  bv_omega

/-! ### FX33 -/

/-- Digit k of `bcdDigits` is left at I + k (R153). -/
theorem memRead_storedDigits (s : State) (v : Byte) (k : Nat) (hk : k < 3) :
    memRead (memWriteBytes s s.i (bcdDigits v)) (indexAddr s k) = (bcdDigits v)[k] :=
  memRead_memWriteBytes_inside (bcdDigits v) s s.i k hk (show 3 ≤ 4096 by decide)

/-! ### FX55 -/

/-- The bytes outside I..I + X are those from before the stores (R154). -/
theorem memRead_storedRegs_outside (s : State) (x : RegIdx) (a : Word)
    (ha : ∀ k ≤ x.toNat, memAddr a ≠ memAddr (indexAddr s k)) :
    memRead (memWriteBytes s s.i ((regsThrough x).map (getV s))) a = memRead s a := by
  refine memRead_memWriteBytes_outside _ s s.i a fun k hk => ha k ?_
  rw [List.length_map, length_regsThrough] at hk
  omega

theorem memRead_of_storeRegs (he : exec (.storeRegs x) s = .next t) (a : Word) :
    memRead t a = memRead (memWriteBytes s s.i ((regsThrough x).map (getV s))) a := by
  rw [exec_storeRegs, advanceIndex_eq] at he
  cases he
  exact memRead_setI _ _ a

/-! ### FX65 -/

/-- Each of V0..VX is loaded from its own byte, and the other registers stay (R155). -/
theorem getV_of_loadRegs (he : exec (.loadRegs x) s = .next t) (k : RegIdx) :
    getV t k = if k.toNat ≤ x.toNat then memRead s (indexAddr s k.toNat) else getV s k := by
  rw [exec_loadRegs, advanceIndex_eq] at he
  cases he
  calc getV ((regsThrough x).foldl loadReg s) k
      = if k ∈ regsThrough x then memRead s (indexAddr s k.toNat) else getV s k := (loadRange_spec _ s).2 k
    _ = if k.toNat ≤ x.toNat then memRead s (indexAddr s k.toNat) else getV s k := by simp only [mem_regsThrough]

/-! ### I after FX55 and FX65 -/

/-- I after the transfers depends only on I and the quirks, which no transfer writes. -/
theorem advanceIndex_i (hi : t.i = s.i) (hcfg : t.cfg = s.cfg) : (advanceIndex t x).i =
    if s.cfg.quirks.memory then s.i + BitVec.ofNat 16 (x.toNat + 1) else s.i := by
  rw [advanceIndex_eq, setI_i, hi, hcfg]

theorem i_of_storeRegs (he : exec (.storeRegs x) s = .next t) :
    t.i = if s.cfg.quirks.memory then s.i + BitVec.ofNat 16 (x.toNat + 1) else s.i := by
  rw [exec_storeRegs] at he
  cases he
  have hkept := keptBut_memWriteBytes s s.i ((regsThrough x).map (getV s))
  exact advanceIndex_i (hkept .i (by decide)) (hkept .cfg (by decide))

theorem i_of_loadRegs (he : exec (.loadRegs x) s = .next t) :
    t.i = if s.cfg.quirks.memory then s.i + BitVec.ofNat 16 (x.toNat + 1) else s.i := by
  rw [exec_loadRegs] at he
  cases he
  exact advanceIndex_i rfl rfl

/-- Under either value of quirk memory, I is all that a transfer may write beside the elements `l`. -/
theorem append_ite_i_subset (l : List Part) (b : Bool) : (l ++ if b then [Part.i] else []) ⊆ l ++ [Part.i] := by
  cases b <;> simp

/-! ### The obligations on memory operations -/

/-- Settles O31: the digits are a run of three bytes from I. -/
theorem bcdStoresThreeDigits : Obligations.BcdStoresThreeDigits := by
  intro x s
  refine ⟨decode_encode (i := .ldBcd x) rfl, _, exec_ldBcd s x, ?hundreds, ?tens, ?ones, ?outside,
    regsSameBut_of_regs_eq (memWriteBytes_regs s _ _), (keptBut_memWriteBytes s _ _).sameBut⟩
  case hundreds => rw [memRead_storedDigits s _ 0 (by decide)]; exact BitVec.toNat_udiv
  case tens => rw [memRead_storedDigits s _ 1 (by decide)]; exact BitVec.toNat_umod
  case ones => rw [memRead_storedDigits s _ 2 (by decide)]; exact BitVec.toNat_umod
  case outside => exact memRead_memWriteBytes_outside (bcdDigits (getV s x)) s s.i

/-- Settles O32: the registers are a run of bytes from I, shorter than memory. -/
theorem storeRangeWritesRegisters : Obligations.StoreRangeWritesRegisters := by
  intro x s
  obtain ⟨t, he⟩ := exec_isNext (.storeRegs x) s
  refine ⟨decode_encode (i := .storeRegs x) rfl, t, he, fun k hk => ?stored, fun a ha => ?outside,
    i_of_storeRegs he, exec_regsSameBut _ he, ((exec_keptBut _ he).mono (append_ite_i_subset [.memory] _)).sameBut⟩
  case stored => rw [memRead_of_storeRegs he, memRead_storedRegs s x k hk]
  case outside => rw [memRead_of_storeRegs he, memRead_storedRegs_outside s x a ha]

/-- Settles O33: a load changes neither memory nor I, so each register is loaded as if it were the only one. -/
theorem loadRangeReadsRegisters : Obligations.LoadRangeReadsRegisters := by
  intro x s
  obtain ⟨t, he⟩ := exec_isNext (.loadRegs x) s
  exact ⟨decode_encode (i := .loadRegs x) rfl, t, he, getV_of_loadRegs he, i_of_loadRegs he,
    ((exec_keptBut _ he).mono (append_ite_i_subset [] _)).sameBut⟩

/-- Settles O34: FX65 reads Vk at the address where FX55 stored it. -/
theorem storeLoadRoundTrip : Obligations.StoreLoadRoundTrip := by
  intro x s t m u hstore hmem hi hload k hk
  have haddr : indexAddr m k.toNat = indexAddr s k.toNat := by rw [indexAddr, indexAddr, hi]
  calc getV u k
      = memRead m (indexAddr m k.toNat) := by rw [getV_of_loadRegs hload, if_pos hk]
    _ = memRead t (indexAddr s k.toNat) := by rw [hmem, haddr]
    _ = getV s k := by rw [memRead_of_storeRegs hstore, memRead_storedRegs s x k hk]

/-- Settles O30: the three instructions differ only in the value of I. -/
theorem indexInstructionsSetI : Obligations.IndexInstructionsSetI := by
  refine fun nnn x s => ⟨decode_encode (i := .ldI nnn) rfl, decode_encode (i := .addI x) rfl,
    decode_encode (i := .ldFont x) rfl, ?ldI, ?addI, ?ldFont⟩
  case ldI =>
    obtain ⟨t, he, hi, hframe⟩ := endsIn_setI (exec_ldI s nnn)
    exact ⟨t, he, by rw [hi, toNat_addrOperand], hframe⟩
  case addI =>
    obtain ⟨t, he, hi, hframe⟩ := endsIn_setI (exec_addI s x)
    exact ⟨t, he, by rw [hi, toNat_word_add_byte], hframe⟩
  case ldFont =>
    obtain ⟨t, he, hi, hframe⟩ := endsIn_setI (exec_ldFont s x)
    exact ⟨t, he, by rw [hi, toNat_fontAddr], hframe⟩

end Sys2Proof.Machine
end

section
/-! Display (spec/44_display.md R160 to R168): the cells that are drawn are the pixels that `spriteCovers` names, so
what a DXYN that draws does to the screen and to VF is said by pixel; and a DXYN held back runs back to itself. -/

namespace Sys2Proof.Machine

variable {s : State} {x y : RegIdx} {n : Nibble} {row : Fin 32} {col : Fin 64}

/-! ### Pixels and cells -/

theorem exists_cellIndex_eq (k : Fin 2048) : ∃ row col, cellIndex row col = k :=
  ⟨⟨k.val / 64, by omega⟩, ⟨k.val % 64, by omega⟩, Fin.ext (Nat.div_add_mod' k.val 64)⟩

theorem pixel_eq_getElem : pixel s row col = s.screen[cellIndex row col] := rfl

/-- Two states show the same screen when every pixel is the same. -/
theorem screen_ext {s t : State} (h : ∀ row col, pixel t row col = pixel s row col) : t.screen = s.screen := by
  apply Vector.ext
  intro k hk
  obtain ⟨row, col, hcell⟩ := exists_cellIndex_eq ⟨k, hk⟩
  obtain rfl : row.val * 64 + col.val = k := congrArg Fin.val hcell
  exact h row col

theorem pixel_blankScreen (s : State) (row : Fin 32) (col : Fin 64) :
    pixel (setScreen s blankScreen) row col = false := by
  simp [pixel, blankScreen]

/-! ### The cells that are drawn are the pixels that the sprite covers -/

/-- The model's clipping and wrapping is the spec's (R165). -/
theorem wrapOrClip_eq_some_iff_landsAt (clip : Bool) (size p : Nat) (h : 0 < size) (q : Fin size) :
    wrapOrClip clip size p h = some q ↔ landsAt clip size p q.val := by
  rw [wrapOrClip_eq_some, landsAt]
  cases clip with
  | false => simp [eq_comm]
  | true =>
    simp only [true_imp_iff, if_true]
    constructor
    · rintro ⟨hq, hp⟩
      rw [hq, Nat.mod_eq_of_lt hp]
    · rintro rfl
      exact ⟨(Nat.mod_eq_of_lt q.isLt).symm, q.isLt⟩

theorem cellIndex_mem_rowCells (clip : Bool) (x0 : Nat) (row row' : Fin 32) (col : Fin 64) (b : Byte) :
    cellIndex row col ∈ rowCells clip x0 row' b ↔
      row' = row ∧ ∃ c < 8, b.getLsbD (7 - c) = true ∧ landsAt clip 64 (x0 + c) col.val := by
  simp only [mem_rowCells, wrapOrClip_eq_some_iff_landsAt]
  constructor
  · rintro ⟨c, hc, hbit, col', hcol, hcell⟩
    obtain ⟨rfl, rfl⟩ := cellIndex_inj hcell
    exact ⟨rfl, c, hc, hbit, hcol⟩
  · rintro ⟨rfl, c, hc, hbit, hcol⟩
    exact ⟨c, hc, hbit, col, hcol, rfl⟩

theorem mem_drawnCells (s : State) (x y : RegIdx) (n : Nibble) (row : Fin 32) (col : Fin 64) :
    cellIndex row col ∈ drawnCells s x y n ↔ spriteCovers s x y n row col := by
  simp only [drawnCells, mem_spriteCells, cellIndex_mem_rowCells, wrapOrClip_eq_some_iff_landsAt, length_spriteBytes]
  have hbyte (r : Nat) (hr : r < (spriteBytes s n).length) :
      (spriteBytes s n)[r] = memRead s (s.i + BitVec.ofNat 16 r) := by
    simp [spriteBytes, indexAddr]
  constructor
  · rintro ⟨r, hr, row', hrow, rfl, c, hc, hbit, hcol⟩
    exact ⟨r, c, hr, hc, hbyte r _ ▸ hbit, hrow, hcol⟩
  · rintro ⟨r, c, hr, hc, hbit, hrow, hcol⟩
    exact ⟨r, hr, row, hrow, rfl, c, hc, (hbyte r _).symm ▸ hbit, hcol⟩

/-! ### A DXYN that draws -/

theorem drawSprite_screen (s : State) (x y : RegIdx) (n : Nibble) :
    (drawSprite s x y n).screen = (drawCells s.screen (drawnCells s x y n)).1 := by
  rw [drawSprite_eq, setV_screen]

theorem pixel_drawSprite_covered (h : spriteCovers s x y n row col) :
    pixel (drawSprite s x y n) row col = !pixel s row col := by
  rw [pixel_eq_getElem, drawSprite_screen, drawCells_screen _ _ _ (nodup_drawnCells s x y n),
    if_pos ((mem_drawnCells s x y n row col).mpr h), pixel_eq_getElem]

theorem pixel_drawSprite_uncovered (h : ¬spriteCovers s x y n row col) :
    pixel (drawSprite s x y n) row col = pixel s row col := by
  rw [pixel_eq_getElem, drawSprite_screen, drawCells_screen _ _ _ (nodup_drawnCells s x y n),
    if_neg (mt (mem_drawnCells s x y n row col).mp h), pixel_eq_getElem]

/-- The sprite covers a pixel that is on (R167). -/
def collides (s : State) (x y : RegIdx) (n : Nibble) : Prop :=
  ∃ row col, spriteCovers s x y n row col ∧ pixel s row col = true

theorem drawCells_hit_iff_collides (s : State) (x y : RegIdx) (n : Nibble) :
    (drawCells s.screen (drawnCells s x y n)).2 = true ↔ collides s x y n := by
  rw [drawCells_hit _ _ (nodup_drawnCells s x y n), List.any_eq_true]
  constructor
  · rintro ⟨k, hk, hon⟩
    obtain ⟨row, col, rfl⟩ := exists_cellIndex_eq k
    exact ⟨row, col, (mem_drawnCells s x y n row col).mp hk, hon⟩
  · rintro ⟨row, col, hcov, hon⟩
    exact ⟨cellIndex row col, (mem_drawnCells s x y n row col).mpr hcov, hon⟩

theorem getV_drawSprite_vf (s : State) (x y : RegIdx) (n : Nibble) :
    getV (drawSprite s x y n) 0xF#4 = flagByte (drawCells s.screen (drawnCells s x y n)).2 := by
  rw [drawSprite_eq]
  exact getV_setV_same _ vf _

theorem vf_of_collides (h : collides s x y n) : getV (drawSprite s x y n) 0xF#4 = 0x01#8 := by
  rw [getV_drawSprite_vf, (drawCells_hit_iff_collides s x y n).mpr h]
  rfl

theorem vf_of_not_collides (h : ¬collides s x y n) : getV (drawSprite s x y n) 0xF#4 = 0x00#8 := by
  rw [getV_drawSprite_vf, Bool.eq_false_iff.mpr (mt (drawCells_hit_iff_collides s x y n).mp h)]
  rfl

theorem vf_eq_one_iff_collides : getV (drawSprite s x y n) 0xF#4 = 0x01#8 ↔ collides s x y n := by
  refine ⟨fun hvf => not_not.mp fun h => ?_, vf_of_collides⟩
  rw [vf_of_not_collides h] at hvf
  exact absurd hvf (by decide)

theorem drawSprite_dwLatch (s : State) (x y : RegIdx) (n : Nibble) :
    (drawSprite s x y n).dwLatch = (s.cfg.quirks.displayWait || s.dwLatch) := by
  rw [drawSprite_eq, setV_dwLatch]

theorem drawSprite_cfg (s : State) (x y : RegIdx) (n : Nibble) : (drawSprite s x y n).cfg = s.cfg := by
  rw [drawSprite_eq, setV_cfg]

theorem regsSameBut_drawSprite (s : State) (x y : RegIdx) (n : Nibble) :
    regsSameBut [0xF#4] s (drawSprite s x y n) := by
  rw [drawSprite_eq]
  exact regsSameBut_setV _ (regsSameBut_of_regs_eq rfl) (List.mem_singleton_self vf)

theorem sameBut_drawSprite (s : State) (x y : RegIdx) (n : Nibble) :
    sameBut [.screen, .dwLatch] s (drawSprite s x y n) := by
  refine ((keptBut_drawSprite s x y n).mono ?_).sameBut
  cases s.cfg.quirks.displayWait <;> simp

/-! ### The same DXYN again -/

/-- A draw writes nothing that decides which pixels its sprite covers, unless it takes a coordinate from VF. -/
theorem spriteCovers_drawSprite (hx : x ≠ 0xF#4) (hy : y ≠ 0xF#4) :
    spriteCovers (drawSprite s x y n) x y n row col ↔ spriteCovers s x y n row col := by
  have hframe := sameBut_drawSprite s x y n
  have hi : (drawSprite s x y n).i = s.i := hframe .i (by decide)
  have hmem : ∀ a, memRead (drawSprite s x y n) a = memRead s a := hframe .memory (by decide)
  have hreg : ∀ z, z ≠ 0xF#4 → getV (drawSprite s x y n) z = getV s z :=
    fun z hz => regsSameBut_drawSprite s x y n z (mt List.mem_singleton.mp hz)
  simp only [spriteCovers, drawSprite_cfg, hi, hmem, hreg x hx, hreg y hy]

/-- The first draw flips the covered pixels, so the second finds on those that were off. -/
theorem collides_drawSprite (hx : x ≠ 0xF#4) (hy : y ≠ 0xF#4) :
    collides (drawSprite s x y n) x y n ↔ ∃ row col, spriteCovers s x y n row col ∧ pixel s row col = false := by
  refine exists_congr fun row => exists_congr fun col => ?_
  rw [spriteCovers_drawSprite hx hy]
  refine and_congr_right fun hcov => ?_
  rw [pixel_drawSprite_covered hcov, Bool.not_eq_true']

/-- A pixel that is flipped twice is as it was. -/
theorem drawSprite_twice_screen (hx : x ≠ 0xF#4) (hy : y ≠ 0xF#4) :
    (drawSprite (drawSprite s x y n) x y n).screen = s.screen := by
  refine screen_ext fun row col => ?_
  by_cases hcov : spriteCovers s x y n row col
  · have hcov' : spriteCovers (drawSprite s x y n) x y n row col := (spriteCovers_drawSprite hx hy).mpr hcov
    rw [pixel_drawSprite_covered hcov', pixel_drawSprite_covered hcov, Bool.not_not]
  · have hcov' : ¬spriteCovers (drawSprite s x y n) x y n row col := mt (spriteCovers_drawSprite hx hy).mp hcov
    rw [pixel_drawSprite_uncovered hcov', pixel_drawSprite_uncovered hcov]

/-- Without quirk display_wait no DXYN is held back. -/
theorem exec_drw_of_not_displayWait (hq : s.cfg.quirks.displayWait = false) :
    exec (.drw x y n) s = .next (drawSprite s x y n) :=
  exec_drw_draw s x y n fun h => Bool.false_ne_true (hq.symm.trans h.1)

/-! ### A DXYN that is held back -/

/-- The retry undoes the advance of the fetch (R163). -/
theorem retryDraw_advancePc (s : State) : retryDraw (advancePc s) = s := by
  simp [setPc]

theorem step_of_heldBack (hr : running s) (hq : s.cfg.quirks.displayWait = true) (hl : s.dwLatch = true)
    (hd : decode (fetchWord s) = .ok (.drw x y n)) : step s = .next (timerStep s) := by
  have he : exec (.drw x y n) (advancePc s) = .next s := by
    rw [exec_drw_wait (advancePc s) x y n hq hl, retryDraw_advancePc]
  rw [step_of_running hr hd he, if_pos hr.1]

theorem timerStep_regs (s : State) : (timerStep s).regs = s.regs := by
  rw [timerStep_eq]

/-- A latch that is set is cleared by a tick and by nothing else in the timer step. -/
theorem timerStep_clears_latch_iff (hl : s.dwLatch = true) :
    (timerStep s).dwLatch = false ↔ s.tickCount + 1 = tickN s.cfg := by
  by_cases htick : s.tickCount + 1 = tickN s.cfg
  · simp [timerStep_tick s htick, htick]
  · simp [timerStep_count s htick, htick, hl]

/-! ### The obligations on the display -/

/-- Settles O37: the blank screen is what a second CLS writes again. -/
theorem clsClearsScreen : Obligations.ClsClearsScreen :=
  ⟨decode_encode (i := .cls) rfl, fun s => ⟨_, exec_cls s, pixel_blankScreen s, regsSameBut_of_regs_eq rfl,
    (keptBut_setScreen s _).sameBut, exec_cls _⟩⟩

/-- Settles O38: the cells drawn are distinct and are the covered pixels, so each of those is flipped once. -/
theorem drwFlipsCoveredPixels : Obligations.DrwFlipsCoveredPixels := by
  refine fun x y n s => ⟨decode_encode (i := .drw x y n) rfl, fun hdraw => ?drawn, fun hq hl => ?heldBack⟩
  case drawn =>
    exact ⟨_, exec_drw_draw s x y n hdraw, fun _ _ => pixel_drawSprite_covered, fun _ _ => pixel_drawSprite_uncovered,
      vf_of_collides, vf_of_not_collides, drawSprite_dwLatch s x y n,
      regsSameBut_drawSprite s x y n, sameBut_drawSprite s x y n⟩
  case heldBack => exact endsIn_setPc (exec_drw_wait s x y n hq hl)

/-- Settles O39: the retry brings PC back to the DXYN, so the cycle is a timer step alone. -/
theorem displayWaitRetriesUntilTick : Obligations.DisplayWaitRetriesUntilTick := by
  intro s x y n hr hq hl hd
  have hframe := (keptBut_timerStep s).sameBut
  exact ⟨timerStep s, step_of_heldBack hr hq hl hd, hframe .pc (by decide), by rwa [fetchWord_timerStep],
    timerStep_clears_latch_iff hl, regsSameBut_of_regs_eq (timerStep_regs s), hframe⟩

/-- Settles O40: both draws cover the same pixels, so the second flips back what the first flipped. -/
theorem drawingTwiceRestoresScreen : Obligations.DrawingTwiceRestoresScreen := by
  intro x y n s t u hq hx hy ht hu
  rw [exec_drw_of_not_displayWait hq] at ht
  cases ht
  rw [exec_drw_of_not_displayWait (by rw [drawSprite_cfg, hq])] at hu
  cases hu
  exact ⟨drawSprite_twice_screen hx hy, vf_eq_one_iff_collides.trans (collides_drawSprite hx hy)⟩

end Sys2Proof.Machine
end

section
/-! Input (spec/45_input.md R180 to R184): the key that a byte selects, the key skips, and FX0A over what its scan
finds. -/

namespace Sys2Proof.Machine

variable {s : State} {x : RegIdx} {k : Key} {b : Byte}

/-! ### Keys and bytes -/

/-- R184 selects a key by the low nibble, the remainder modulo 16. -/
theorem lowNibble_eq_of_toNat (h : k.toNat = b.toNat % 16) : lowNibble b = k :=
  BitVec.eq_of_toNat_eq (by rw [h, lowNibble, BitVec.toNat_setWidth])

theorem toNat_key_setWidth (k : Key) : (k.setWidth 8 : Byte).toNat = k.toNat :=
  BitVec.toNat_setWidth_of_le (by decide)

/-! ### FX0A -/

theorem exec_ldVxKey_firstKey (h : firstKey s k) : exec (.ldVxKey x) s = .next (storeKey s x k) :=
  exec_ldVxKey_some s x k ((firstKeyDown_some s k).mpr h)

theorem exec_ldVxKey_noKey (h : noKey s) : exec (.ldVxKey x) s = .next (block s x) :=
  exec_ldVxKey_none s x ((firstKeyDown_none s).mpr h)

/-! ### The obligations on input -/

/-- Settles O42: the scan finds the lowest key that is down, which is an ordinary register write, or none. -/
theorem keyWaitStoresOrBlocks : Obligations.KeyWaitStoresOrBlocks := by
  refine fun x s => ⟨decode_encode (i := .ldVxKey x) rfl, fun k hk => ?stores, fun hno => ?blocks⟩
  case stores =>
    obtain ⟨t, he, hkey, hframe⟩ := endsIn_setV (exec_ldVxKey_firstKey (x := x) hk)
    exact ⟨t, he, by rw [hkey, toNat_key_setWidth], hframe⟩
  case blocks =>
    exact ⟨_, exec_ldVxKey_noKey hno, rfl, rfl, regsSameBut_of_regs_eq rfl, (keptBut_block s x).sameBut⟩

/-- Settles O41: both skips look at the key of the low nibble. -/
theorem keySkipsTestKey : Obligations.KeySkipsTestKey := by
  intro x s k hk
  obtain rfl : lowNibble (getV s x) = k := lowNibble_eq_of_toNat hk
  refine ⟨decode_encode (i := .skp x) rfl, decode_encode (i := .sknp x) rfl, ?down, ?up⟩
  case down => exact endsIn_skipIf (exec_skp s x)
  case up => simpa only [Bool.not_iff_not, ite_not] using endsIn_skipIf (exec_sknp s x)

end Sys2Proof.Machine
end

section
/-! Timers (spec/46_timers.md R190 to R196): the timer writes with their frames, a tick as a number, and the count-down
over any number of timer steps. -/

namespace Sys2Proof.Machine

variable {s : State} {i : Instr} {b : Byte} {m : Nat}

/-! ### The outcomes that FX15 and FX18 lead to -/

theorem endsIn_setDt (he : exec i s = .next (setDt s b)) :
    endsIn (exec i s) fun t => t.dt = b ∧ regsSameBut [] s t ∧ sameBut [.dt] s t :=
  ⟨_, he, rfl, regsSameBut_of_regs_eq rfl, (keptBut_setDt s b).sameBut⟩

theorem endsIn_setSt (he : exec i s = .next (setSt s b)) :
    endsIn (exec i s) fun t => t.st = b ∧ regsSameBut [] s t ∧ sameBut [.st] s t :=
  ⟨_, he, rfl, regsSameBut_of_regs_eq rfl, (keptBut_setSt s b).sameBut⟩

/-- The tone depends on ST alone (R196). -/
theorem tone_eq_true_iff (s : State) : tone s = true ↔ s.st ≠ 0x00#8 := bne_iff_ne

/-! ### Ticks in a run of timer steps -/

theorem toNat_tick_dt (s : State) : (tick s).dt.toNat = s.dt.toNat - 1 := toNat_countDown s.dt

theorem toNat_tick_st (s : State) : (tick s).st.toNat = s.st.toNat - 1 := toNat_countDown s.st

/-- A run of timer steps that begins at a tick takes that tick and those of the `m` steps after it. -/
theorem ticks_from_tick (htick : s.tickCount + 1 = tickN s.cfg) :
    (s.tickCount + (m + 1)) / tickN s.cfg = 1 + m / tickN s.cfg := by
  have hsum : s.tickCount + (m + 1) = tickN s.cfg + m := by omega
  have hpos : 0 < tickN s.cfg := by omega
  rw [hsum, Nat.add_div_left m hpos, Nat.add_comm]

theorem tickCount_from_tick (htick : s.tickCount + 1 = tickN s.cfg) :
    (s.tickCount + (m + 1)) % tickN s.cfg = m % tickN s.cfg := by
  have hsum : s.tickCount + (m + 1) = tickN s.cfg + m := by omega
  rw [hsum, Nat.add_mod_left]

/-! ### The obligations on the timers -/

/-- Settles O46, by induction on the number of steps: the first is a tick, after which the count is 0, or it moves the
count one nearer to TICK_N. -/
theorem timersCountDownOverCycles : Obligations.TimersCountDownOverCycles := by
  intro m
  induction m with
  | zero =>
    intro s hlt
    simp [Nat.div_eq_of_lt hlt, Nat.mod_eq_of_lt hlt]
  | succ m ih =>
    intro s hlt
    rw [Function.iterate_succ_apply]
    by_cases htick : s.tickCount + 1 = tickN s.cfg
    · have hrest := ih (tick s) (Nat.zero_lt_of_lt hlt)
      simp only [tick_tickCount, tick_cfg, Nat.zero_add, toNat_tick_dt, toNat_tick_st, Nat.sub_sub] at hrest
      rw [timerStep_tick s htick, ticks_from_tick htick, tickCount_from_tick htick]
      exact hrest
    · rw [timerStep_count s htick, Nat.add_comm m 1, ← Nat.add_assoc]
      exact ih { s with tickCount := s.tickCount + 1 } (lt_of_le_of_ne hlt htick)

/-- Settles O43: each instruction is one write, and the tone is read from the ST written. -/
theorem timerInstructionsMoveTimers : Obligations.TimerInstructionsMoveTimers := by
  refine fun x s => ⟨decode_encode (i := .ldVxDt x) rfl, decode_encode (i := .ldDtVx x) rfl,
    decode_encode (i := .ldStVx x) rfl, endsIn_setV (exec_ldVxDt s x), endsIn_setDt (exec_ldDtVx s x), ?ldStVx,
    tone_eq_true_iff s⟩
  case ldStVx =>
    obtain ⟨t, he, hst, hframe⟩ := endsIn_setSt (exec_ldStVx s x)
    exact ⟨t, he, hst, hst ▸ tone_eq_true_iff t, hframe⟩

/-- Settles O44: TICK_N is floor(IPS / 60), and DT, ST, the latch and the count are all that the timer step writes. -/
theorem timerStepCountsAndTicks : Obligations.TimerStepCountsAndTicks := by
  refine fun s => ⟨fun htick => ?tick, fun hcount => ?count, regsSameBut_of_regs_eq (timerStep_regs s),
    (keptBut_timerStep s).sameBut⟩
  case tick =>
    rw [timerStep_tick s htick]
    exact ⟨toNat_tick_dt s, toNat_tick_st s, rfl, rfl⟩
  case count =>
    rw [timerStep_count s hcount]
    exact ⟨rfl, rfl, rfl, rfl⟩

end Sys2Proof.Machine
end

section
/-! The random byte and the legacy call (spec/47_random_unimplemented.md R200, R201): what NN keeps of the byte drawn,
the one draw that CXNN counts, and the words that are SYS addr. -/

namespace Sys2Proof.Machine

variable {s : State} {i : Instr} {x : RegIdx} {r nn : Byte}

/-! ### CXNN -/

theorem endsIn_countDraw_setV (he : exec i s = .next (countDraw (setV s x r))) :
    endsIn (exec i s) fun t =>
      getV t x = r ∧ t.draws = s.draws + 1 ∧ regsSameBut [x] s t ∧ sameBut [.draws] s t :=
  ⟨_, he, getV_setV_same s x r, rfl, regsSameBut_setV r (regsSameBut_of_regs_eq rfl) (List.mem_singleton_self x),
    ((keptBut_setV s x r).trans (keptBut_countDraw _)).sameBut⟩

/-- The mask clears every bit outside NN, whatever the draw (R200). -/
theorem getLsbD_and_of_mask_bit_false {k : Nat} (r : Byte) (hk : nn.getLsbD k = false) :
    (r &&& nn).getLsbD k = false := by
  rw [BitVec.getLsbD_and, hk, Bool.and_false]

/-! ### 0NNN -/

/-- SYS addr is well-formed at every NNN but those of CLS and RET (spec/30_encoding.md R76). -/
theorem wf_sys_of_ne {nnn : Addr} (hcls : nnn ≠ 0x0E0#12) (hret : nnn ≠ 0x0EE#12) : (Instr.sys nnn).wf = true := by
  simp [Instr.wf, hcls, hret]

/-! ### The obligations on the random byte and the legacy call -/

/-- Settles O47: the draw is a free byte, and the mask alone decides which of its bits reach V[X]. -/
theorem rndStoresMaskedDraw : Obligations.RndStoresMaskedDraw := by
  intro x nn s
  obtain ⟨t, he, hbyte, hdraws, hframe⟩ := endsIn_countDraw_setV (exec_rnd s x nn)
  refine ⟨decode_encode (i := .rnd x nn) rfl, t, he, hbyte, hdraws, fun k hk => ?cleared, fun hnn => ?whole, hframe⟩
  case cleared => rw [hbyte, getLsbD_and_of_mask_bit_false _ hk]
  case whole =>
    rw [hbyte, hnn]
    exact BitVec.and_allOnes

/-- Settles O48: SYS addr raises its fatal error in every state, and the record holds the word that encodes it. -/
theorem sysRaisesUnimplementedLegacy : Obligations.SysRaisesUnimplementedLegacy := fun nnn s =>
  ⟨fun hcls hret => decode_encode (i := .sys nnn) (wf_sys_of_ne hcls hret), endsIn_raiseFatal (exec_sys s nnn)⟩

end Sys2Proof.Machine
end

section
/-! Fatal errors (spec/60_exceptions.md R210 to R214): the cause of each kind, the state with which a cycle that meets it
ends, and why no command changes the record afterwards. -/

namespace Sys2Proof

theorem error_of_decode {w : Word} {e : DecodeError} (h : decode w = .error e) : e = .unrecognized w := by
  have hverdict := decode_verdict w
  rw [h] at hverdict
  cases hverdict with
  | unrecognized => rfl

end Sys2Proof

namespace Sys2Proof.Machine

variable {s t : State} {i : Instr} {k : FatalKind} {r : FaultRecord}

/-! ### The instructions that raise a fatal error -/

theorem fault_mem_partsWritten {q : Quirks} :
    .fault ∈ partsWritten q i ↔ (∃ nnn, i = .sys nnn) ∨ i = .ret ∨ ∃ nnn, i = .call nnn := by
  cases i <;> simp [partsWritten]

/-- Only SYS addr, RET on an empty stack and CALL on a full one raise a fatal error (R210). -/
theorem cause_of_exec_fault (hf : s.fault = none) (he : exec i s = .next t) (ht : t.fault ≠ none) :
    (∃ nnn, i = .sys nnn) ∨ (i = .ret ∧ s.sp = 0) ∨ (s.cfg.stackCap ≤ s.sp ∧ ∃ nnn, i = .call nnn) := by
  have hwrites : .fault ∈ partsWritten s.cfg.quirks i :=
    mem_partsWritten .fault he fun hkept => ht (Eq.trans hkept hf)
  rcases fault_mem_partsWritten.mp hwrites with hsys | rfl | ⟨nnn, rfl⟩
  · exact .inl hsys
  · rcases List.eq_nil_or_concat s.stack with hempty | ⟨below, a, htop⟩
    · exact .inr (.inl ⟨rfl, sp_eq_zero_iff.mpr hempty⟩)
    · rw [exec_ret_append s below a (by simpa using htop)] at he
      cases he
      exact absurd hf ht
  · by_cases hroom : s.sp < s.cfg.stackCap
    · rw [exec_call_room s nnn hroom] at he
      cases he
      exact absurd hf ht
    · exact .inr (.inr ⟨Nat.not_lt.mp hroom, nnn, rfl⟩)

/-! ### The cause of each kind in a cycle -/

/-- The condition under which a Running cycle raises each kind (R210). -/
def fatalCause (s : State) : FatalKind → Prop
  | .unrecognizedOpcode => decode (fetchWord s) = .error (.unrecognized (fetchWord s))
  | .stackOverflow => s.cfg.stackCap ≤ s.sp ∧ ∃ nnn, decode (fetchWord s) = .ok (.call nnn)
  | .stackUnderflow => s.sp = 0 ∧ fetchWord s = 0x00EE#16
  | .unimplementedLegacy => ∃ nnn, decode (fetchWord s) = .ok (.sys nnn)

/-- The instruction's own word is the one fetched, and no timer step follows the record (R211). -/
theorem step_of_exec_raiseFatal (hr : running s) (hd : decode (fetchWord s) = .ok i)
    (he : exec i (advancePc s) = .next (raiseFatal k (encode i) (advancePc s))) :
    step s = .next (raiseFatal k (fetchWord s) (advancePc s)) := by
  obtain ⟨-, hword⟩ := wf_and_encode_of_decode hd
  rw [step_of_running hr hd he, if_neg (by simp), hword]

/-- A Running cycle that meets the cause of a kind ends with its record, and PC advanced (R211 to R213). -/
theorem step_of_fatalCause (hr : running s) (hc : fatalCause s k) :
    step s = .next (raiseFatal k (fetchWord s) (advancePc s)) := by
  cases k with
  | unrecognizedOpcode => exact step_of_unrecognized hr hc
  | stackOverflow =>
    obtain ⟨hfull, nnn, hd⟩ := hc
    exact step_of_exec_raiseFatal hr hd (exec_call_full _ nnn hfull)
  | stackUnderflow =>
    obtain ⟨hsp, hword⟩ := hc
    have hd : decode (fetchWord s) = .ok .ret := hword ▸ decode_encode (i := .ret) rfl
    exact step_of_exec_raiseFatal hr hd (exec_ret_empty _ (sp_eq_zero_iff.mp hsp))
  | unimplementedLegacy =>
    obtain ⟨nnn, hd⟩ := hc
    exact step_of_exec_raiseFatal hr hd (exec_sys _ nnn)

theorem timerStep_fault (s : State) : (timerStep s).fault = s.fault := keptBut_timerStep s .fault (by decide)

/-- A cycle that ends with a record was a Running one that met the cause of some kind. -/
theorem fatalCause_of_fault (hs : step s = .next t) (ht : t.fault ≠ none) :
    running s ∧ ∃ k, fatalCause s k := by
  obtain ⟨hf, ⟨-, rfl⟩ | ⟨hb, i, u, hd, he, rfl⟩ | ⟨hb, ⟨e, hd⟩, -⟩⟩ := step_cases s t hs
  · have hkept : (timerStep (blockedScan s)).fault = s.fault :=
      ((keptBut_blockedScan s).trans (keptBut_timerStep _)) .fault (by decide)
    exact absurd (hkept.trans hf) ht
  · have hu : u.fault ≠ none := by
      split at ht
      · exact ht
      · rwa [timerStep_fault] at ht
    refine ⟨⟨hf, hb⟩, ?_⟩
    rcases cause_of_exec_fault (s := advancePc s) hf he hu with ⟨nnn, rfl⟩ | ⟨rfl, hsp⟩ | ⟨hfull, nnn, rfl⟩
    · exact ⟨.unimplementedLegacy, nnn, hd⟩
    · exact ⟨.stackUnderflow, hsp, (wf_and_encode_of_decode hd).2.symm⟩
    · exact ⟨.stackOverflow, hfull, nnn, hd⟩
  · obtain rfl := error_of_decode hd
    exact ⟨⟨hf, hb⟩, .unrecognizedOpcode, hd⟩

/-- A cycle that ends with a record ends with nothing else but PC changed, and the record's kind had its cause. -/
theorem faultedCycle (hs : step s = .next t) (ht : t.fault = some r) :
    running s ∧ fatalCause s r.kind ∧ t = raiseFatal r.kind (fetchWord s) (advancePc s) := by
  obtain ⟨hr, k, hc⟩ := fatalCause_of_fault hs (by simp [ht])
  rw [step_of_fatalCause hr hc] at hs
  cases hs
  cases ht
  exact ⟨hr, hc, rfl⟩

theorem faulted_with_kind_iff (hf : s.fault = none) (hs : step s = .next t) (k : FatalKind) :
    (∃ r, t.fault = some r ∧ r.kind = k) ↔ s.blocked = false ∧ fatalCause s k := by
  constructor
  · rintro ⟨r, ht, rfl⟩
    obtain ⟨⟨-, hb⟩, hc, -⟩ := faultedCycle hs ht
    exact ⟨hb, hc⟩
  · rintro ⟨hb, hc⟩
    rw [step_of_fatalCause ⟨hf, hb⟩ hc] at hs
    cases hs
    exact ⟨_, rfl, rfl⟩

/-! ### The record afterwards -/

/-- The record is final: a cycle and reset() are refused, and a key leaves it alone (R212). -/
theorem hostStep_keeps_fault {c : Command} (ht : s.fault ≠ none) (h : hostStep c s = .next t) : t.fault = s.fault := by
  rcases hostStep_cases h with hs | ⟨_, _, rfl⟩ | ⟨hf, -⟩
  · rw [step_of_faulted ht] at hs
    cases hs
  · rfl
  · exact absurd hf ht

/-! ### The reported code -/

theorem FatalKind.code_bounds (k : FatalKind) : k.code ≠ 0 ∧ k.code ≤ 4 := by cases k <;> decide

theorem faultCode_of_fault (h : s.fault = some r) : faultCode s = r.kind.code := by rw [faultCode, h]

theorem faultCode_of_no_fault (h : s.fault = none) : faultCode s = 0 := by rw [faultCode, h]

theorem faultCode_range (s : State) : (faultCode s = 0 ↔ s.fault = none) ∧ faultCode s ≤ 4 := by
  cases h : s.fault with
  | none => simp [faultCode_of_no_fault h]
  | some r => simp [faultCode_of_fault h, FatalKind.code_bounds]

/-! ### The obligations on fatal errors -/

/-- Settles O12: the state in which such a cycle ends is known whole, and no command gets past its record. -/
theorem fatalErrorsArePreciseAndFinal : Obligations.FatalErrorsArePreciseAndFinal := by
  intro s t r _ hs ht
  have hfaulted : t.fault ≠ none := by simp [ht]
  obtain ⟨-, -, hend⟩ := faultedCycle hs ht
  have hrecord : r = { kind := r.kind, opcode := fetchWord s, pc := s.pc + 2 } :=
    Option.some_inj.mp (ht.symm.trans (congrArg State.fault hend))
  refine ⟨congrArg FaultRecord.opcode hrecord, congrArg FaultRecord.pc hrecord, ?before, ?frame,
    step_of_faulted hfaulted, fun c u hu => (hostStep_keeps_fault hfaulted hu).trans ht⟩
  case before => rw [hrecord, BitVec.add_sub_cancel]
  case frame => rw [hrecord]; exact hend

/-- Settles O13: a cycle records a kind exactly when it is a Running one that meets the kind's cause. -/
theorem fatalKindsHaveTheirCauses : Obligations.FatalKindsHaveTheirCauses := fun _ t hf hs =>
  ⟨faulted_with_kind_iff hf hs .unrecognizedOpcode, faulted_with_kind_iff hf hs .stackOverflow,
    faulted_with_kind_iff hf hs .stackUnderflow, faulted_with_kind_iff hf hs .unimplementedLegacy, faultCode_range t⟩

end Sys2Proof.Machine
end

section
/-! Construction and reset() (spec/70_reset_and_hazards.md R230 to R234): which arguments construction accepts, what the
built state holds, with the three runs of bytes that fill memory, and what reset() sets and keeps. -/

namespace Sys2Proof.Machine

variable {s : State} {a : Setup}

/-! ### The arguments of construction -/

theorem construct_romTooLarge (hrom : maxRomBytes < a.rom.length) : construct a = .fault .romTooLarge := if_pos hrom

theorem construct_ipsTooSmall (hrom : a.rom.length ≤ maxRomBytes) (hips : a.ips < 60) :
    construct a = .refused .ipsTooSmall := by
  rw [construct, if_neg (Nat.not_lt.mpr hrom), if_pos hips]

theorem construct_stackCapTooSmall (hrom : a.rom.length ≤ maxRomBytes) (hips : 60 ≤ a.ips) (hcap : a.stackCap < 12) :
    construct a = .refused .stackCapTooSmall := by
  rw [construct, if_neg (Nat.not_lt.mpr hrom), if_neg (Nat.not_lt.mpr hips), if_pos hcap]

theorem construct_accepted (hrom : a.rom.length ≤ maxRomBytes) (hips : 60 ≤ a.ips) (hcap : 12 ≤ a.stackCap) :
    construct a = .next a.builtState :=
  (construct_eq_next a).mpr ⟨hrom, ⟨hips, hcap⟩, rfl⟩

/-! ### A run of bytes that ends inside memory -/

/-- An address inside the run reads as the byte of the run at its distance from the start. -/
theorem memRead_loaded {start b : Word} {vs : List Byte} (hlen : vs.length ≤ 4096) (hstart : start.toNat ≤ b.toNat)
    (hend : b.toNat < start.toNat + vs.length) :
    some (memRead (memWriteBytes s start vs) b) = vs[b.toNat - start.toNat]? := by
  have hoff : b.toNat - start.toNat < vs.length := by omega
  have hb : start + BitVec.ofNat 16 (b.toNat - start.toNat) = b := by bv_omega
  calc some (memRead (memWriteBytes s start vs) b)
      = some (memRead (memWriteBytes s start vs) (start + BitVec.ofNat 16 (b.toNat - start.toNat))) := by rw [hb]
    _ = some vs[b.toNat - start.toNat] := congrArg some (memRead_memWriteBytes_inside vs s start _ hoff hlen)
    _ = vs[b.toNat - start.toNat]? := (List.getElem?_eq_getElem hoff).symm

/-- An address outside the run is as before. -/
theorem memRead_not_loaded {start b : Word} {vs : List Byte} (hfits : start.toNat + vs.length ≤ 4096)
    (hb : b.toNat < 4096) (hout : ¬(start.toNat ≤ b.toNat ∧ b.toNat < start.toNat + vs.length)) :
    memRead (memWriteBytes s start vs) b = memRead s b := by
  refine memRead_memWriteBytes_outside vs s start b fun k hk => ?_
  simp only [memAddr, BitVec.toNat_add, BitVec.toNat_ofNat]
  omega

/-! ### The built state -/

/-- Filling memory changes nothing else of R42's column "after construction". -/
theorem builtState_eq (a : Setup) : ∃ m, a.builtState = { a.emptyState with memory := m } :=
  ⟨a.builtState.memory, by
    rw [Setup.builtState, memWriteBytes_eq, memWriteBytes_eq, memWriteBytes_eq]⟩

/-- The ROM is loaded last (R230). -/
theorem memRead_builtState_rom {b : Word} (hrom : a.rom.length ≤ maxRomBytes) (hstart : 512 ≤ b.toNat)
    (hend : b.toNat < 512 + a.rom.length) : some (memRead a.builtState b) = a.rom[b.toNat - 512]? :=
  memRead_loaded (hrom.trans (by decide)) hstart hend

/-- The font lies below the ROM, and is loaded after INIT_MEM (R52). -/
theorem memRead_builtState_font {b : Word} (hrom : a.rom.length ≤ maxRomBytes) (hb : b.toNat < 80) :
    some (memRead a.builtState b) = a.font.toList[b.toNat]? := by
  have hsize : a.font.toList.length = 80 := Vector.length_toList
  rw [Setup.builtState,
    memRead_not_loaded (start := 0x0200#16) (Nat.add_le_add_left hrom 512) (by omega) (by simp; omega)]
  exact memRead_loaded (by omega) (Nat.zero_le _) (by simp [hsize, hb])

/-- Neither the font nor the ROM reaches the other addresses below 4096 (R230). -/
theorem memRead_builtState_initMem {b : Word} (hrom : a.rom.length ≤ maxRomBytes) (hfont : 80 ≤ b.toNat)
    (hb : b.toNat < 4096) (hout : ¬(512 ≤ b.toNat ∧ b.toNat < 512 + a.rom.length))
    (hinit : b.toNat < a.initMem.length) :
    some (memRead a.builtState b) = a.initMem[b.toNat]? := by
  have hsize : a.font.toList.length = 80 := Vector.length_toList
  rw [Setup.builtState, memRead_not_loaded (start := 0x0200#16) (Nat.add_le_add_left hrom 512) hb hout,
    memRead_not_loaded (start := 0x0000#16) (by simp [hsize]) hb (by simp [hsize, hfont]),
    memRead_loaded (start := 0x0000#16) (by simp) (Nat.zero_le _) (by simp; omega)]
  exact List.getElem?_take_of_lt hb

/-! ### reset() -/

theorem hostStep_reset_accepted (hf : s.fault = none) : hostStep .reset s = .next (hostReset s) := by
  simp [hostStep, hf]

/-- What reset() keeps (R233). -/
theorem keptBut_hostReset (s : State) :
    keptBut [.pc, .i, .stack, .dt, .st, .blocked, .dwLatch, .tickCount, .screen] s (hostReset s) := by
  intro p hp
  cases p with
  | memory | keys | blockedReg | fault | cfg | draws => rfl
  | _ => simp at hp

/-! ### The obligations on construction and reset() -/

/-- Settles O53: the ROM does not reach the font, and INIT_MEM shows where neither of them lies. -/
theorem constructionBuildsState : Obligations.ConstructionBuildsState := by
  intro a hrom hips hcap
  obtain ⟨m, hbuilt⟩ := builtState_eq a
  refine ⟨{ a.emptyState with memory := m }, hbuilt ▸ construct_accepted hrom hips hcap, rfl, rfl, rfl, rfl, rfl,
    pixel_reset, keyDown_reset, rfl, rfl, rfl, rfl, rfl, rfl, ?font, ?rom, ?initMem⟩
  all_goals rw [← hbuilt]
  case font => exact fun _ => memRead_builtState_font hrom
  case rom => exact fun _ => memRead_builtState_rom hrom
  case initMem => exact fun _ => memRead_builtState_initMem hrom

/-- Settles O54: one case for each check, in the order of the checks, and one that passes them all. -/
theorem constructionChecksArguments : Obligations.ConstructionChecksArguments := by
  refine fun a => ⟨construct_romTooLarge, fun hrom hbad => ?refused,
    fun hrom hips hcap => ⟨a.builtState, construct_accepted hrom hips hcap⟩⟩
  case refused =>
    by_cases hips : a.ips < 60
    · exact ⟨_, construct_ipsTooSmall hrom hips⟩
    · exact ⟨_, construct_stackCapTooSmall hrom (Nat.not_lt.mp hips) (hbad.resolve_left hips)⟩

/-- Settles O55: the frame of reset() is what it keeps. -/
theorem hostResetReinitializes : Obligations.HostResetReinitializes := fun s hf =>
  ⟨hostReset s, hostStep_reset_accepted hf, rfl, rfl, rfl, rfl, rfl, rfl, rfl, rfl, pixel_blankScreen s,
    regsSameBut_of_regs_eq rfl, ((keptBut_hostReset s).mono (by simp)).sameBut⟩

end Sys2Proof.Machine
end
